-- ==== Sys2Proof/Word.lean ====
section
/-! DEFINITION. The word types of GMSM-SYMCORE (spec/00_scope.md R7): every width the spec gives a quantity. -/

namespace Sys2Proof

/-- A byte, 8 bits (R7). -/
abbrev Byte := BitVec 8

/-- A byte string, first byte first (R7). -/
abbrev Bytes := List Byte

/-- A 32-bit word: the unit of SM4 arithmetic (40_sm4.md R80). -/
abbrev Word := BitVec 32

/-- A 64-bit word: a host register (10_state.md R16), or one half of a field element (R22). -/
abbrev DWord := BitVec 64

/-- A 16-byte string, held as the 128-bit number it is read as big-endian (20_memory.md R45):
byte 0 is the most significant byte, byte 15 the least significant. -/
abbrev Block := BitVec 128

end Sys2Proof
end

