-- ==== Sys2Proof/Config.lean ====
section
/-! DEFINITION. The implementation parameters of 00_scope.md R5.

The parameters that are plain data (`CONC`, `MEM_SIZE`, which functions are present, `MUR_IV_TAIL`) form
`Params`, which `State` carries unchanged, so that a statement about every state is a statement about every
hardware instance (log 3). The three parameters that are functions are opaque constants: nothing can be
proved of a value of theirs, so a statement holds for every choice of them (log 4). The bytes of a length that does
not fit 64 bits are one more (log 11). -/

namespace Sys2Proof

/-- The two values of the parameter `MUR_IV_TAIL` (R5, 45_ccm_gxm_mur.md R222). -/
inductive MurIvTail where
  /-- bytes 16 and up of the tag-stream IV are zero (the default) -/
  | literal
  /-- bytes 16 and up of the tag-stream IV are the iv's own -/
  | zeroExtended
deriving DecidableEq, Repr

/-- The plain-data parameters of a hardware instance (R5), "fixed for the lifetime of a hardware instance". -/
structure Params where
  /-- `CONC`: how many blocks SM4.ENCB and SM4.DECB process -/
  conc : Nat
  /-- `MEM_SIZE`: bytes of buffer memory -/
  memSize : Nat
  /-- the parameter `XTS_GB_MUL2` is present -/
  hasXtsGbMul2 : Bool
  /-- the parameter `GXM_KS` is present -/
  hasGxmKs : Bool
  /-- the parameter `STREAM_NEW` is present -/
  hasStreamNew : Bool
  /-- `MUR_IV_TAIL` -/
  murIvTail : MurIvTail
deriving DecidableEq, Repr

/-- The defaults R5 gives: `CONC` 4, `MEM_SIZE` 2^32, the three functions absent, `MUR_IV_TAIL` literal. -/
def Params.ofSpec : Params where
  conc := 4
  memSize := 2 ^ 32
  hasXtsGbMul2 := false
  hasGxmKs := false
  hasStreamNew := false
  murIvTail := .literal

namespace Config

/-- `XTS_GB_MUL2`: the tweak doubling of the XTS "GB" dialect (R5, 44_xts_hctr.md R184). Free value, log 4. -/
opaque xtsGbMul2 : Block → Block

/-- `GXM_KS(i)`: byte i of the keystream GXM is constructed from (R5, 45_ccm_gxm_mur.md R201). Free value, log 4. -/
opaque gxmKs : Nat → Byte

/-- `STREAM_NEW(key, iv)`: refuse (`none`), or the keystream of the new cipher (R5, 45_ccm_gxm_mur.md R201).
Free value, log 4. -/
opaque streamNew : Bytes → Bytes → Option (Nat → Byte)

/-- The 64 bits that stand for the length in bits of n bytes where it is 2^64 or more, so that R7 gives `be(8, v)`
no value (41_gf128.md R108, 44_xts_hctr.md R192: 2^61 bytes at `MEM_SIZE` = 2^61). Free value, log 11. -/
opaque overlongBitLength : Nat → DWord

end Config

end Sys2Proof
end

