-- ==== Sys2Proof/Syntax.lean ====
section
/-! DEFINITION. The commands of GMSM-SYMCORE: one constructor per row of spec/opcode_table.json
(30_encoding.md R63). A command has no operand fields (R60, R61), so no constructor has an argument. -/

namespace Sys2Proof

/-- The 50 commands of R63, in the table's order. -/
inductive Instr where
  | sysNop | sysZeroize
  | sm4Init | sm4Enc | sm4Dec | sm4Encb | sm4Decb
  | gfInit | gfMul | gfUpd
  | ecbInit | ecbEnc | ecbDec
  | cbcInit | cbcEnc | cbcDec | cbcSetiv
  | cfbInit | cfbEnc | cfbDec
  | ofbInit | ofbXor
  | ctrInit | ctrXor
  | xtsInit | xtsEnc | xtsDec
  | bcInit | bcEnc | bcDec | bcSetiv
  | ofbnlfInit | ofbnlfEnc | ofbnlfDec | ofbnlfSetiv
  | hctrInit | hctrEnc | hctrDec
  | gcmInit | gcmSeal | gcmOpen
  | ccmInit | ccmSeal | ccmOpen
  | gxmInit | gxmSeal | gxmOpen
  | murInit | murSeal | murOpen
deriving DecidableEq, Repr

end Sys2Proof
end

