-- ==== Sys2Proof/WellFormed.lean ====
section
/-! DEFINITION. Well-formedness: of a value written to CMD, split into the fields of the format `CW`
(30_encoding.md R60), of a command, and of the parameters of a hardware instance (00_scope.md R5). -/

namespace Sys2Proof

/-- A 64-bit value written to CMD, split as R60's table splits it. `rsv` is `RSV` together with the 32 bits
above the command word: "must be 0" for both. -/
structure CommandWord where
  func : BitVec 4
  unit : BitVec 4
  rsv : BitVec 56
deriving DecidableEq, Repr

/-- The fields of a value written to CMD (R60). -/
def CommandWord.ofValue (v : DWord) : CommandWord where
  func := v.extractLsb' 0 4
  unit := v.extractLsb' 4 4
  rsv := v.extractLsb' 8 56

/-- The FUNC values each unit assigns, unit by unit, as R63's table lists them. -/
def assignedFuncs : List (List Nat) :=
  [[0, 15], [0, 1, 2, 4, 5], [0, 6, 7], [0, 1, 2],
   [0, 1, 2, 3], [0, 1, 2], [0, 1], [0, 1],
   [0, 1, 2], [0, 1, 2, 3], [0, 1, 2, 3], [0, 1, 2],
   [0, 1, 2], [0, 1, 2], [0, 1, 2], [0, 1, 2]]

/-- R60: the bits above UNIT are zero. -/
def CommandWord.reservedClear (c : CommandWord) : Bool := c.rsv == 0

/-- R63, R64: the unit assigns this function. -/
def CommandWord.functionAssigned (c : CommandWord) : Bool :=
  (assignedFuncs.getD c.unit.toNat []).contains c.func.toNat

/-- R64: the value is a legal command. -/
def CommandWord.wellFormed (c : CommandWord) : Bool := c.reservedClear && c.functionAssigned

/-- Every command is well-formed: it has no operand field that could be out of range (R60, R61). -/
def Instr.wellFormed (_ : Instr) : Bool := true

/-- `CONC` is a power of two, 1 to 128 (R5). -/
def Params.concOk (p : Params) : Bool := [1, 2, 4, 8, 16, 32, 64, 128].contains p.conc

/-- `MEM_SIZE` is 1 to 2^61 (R5). -/
def Params.memSizeOk (p : Params) : Bool := decide (1 ≤ p.memSize) && decide (p.memSize ≤ 2 ^ 61)

/-- The parameters are ones R5 allows. -/
def Params.wellFormed (p : Params) : Bool := p.concOk && p.memSizeOk

end Sys2Proof
end

