-- ==== Sys2Proof/Decode.lean ====
section
/-! DEFINITION. Decoding a value written to CMD, total, rejecting by name (30_encoding.md R60 to R64), and
the encoder. The decoder follows R63's "word" column, the encoder R62's UNIT numbers and R63's FUNC numbers. -/

namespace Sys2Proof

/-- Why a value written to CMD is no command (R64). -/
inductive Reject where
  /-- a bit of v[63:8] is set -/
  | reservedBitsSet
  /-- v[63:8] is 0 and v[7:0] is none of the 50 words -/
  | unassignedWord (word : Nat)
deriving DecidableEq, Repr

/-- The command with a given command word, R63's table row by row. -/
def commandOfWord : Nat → Option Instr
  | 0x00 => some .sysNop
  | 0x0F => some .sysZeroize
  | 0x10 => some .sm4Init
  | 0x11 => some .sm4Enc
  | 0x12 => some .sm4Dec
  | 0x14 => some .sm4Encb
  | 0x15 => some .sm4Decb
  | 0x20 => some .gfInit
  | 0x26 => some .gfMul
  | 0x27 => some .gfUpd
  | 0x30 => some .ecbInit
  | 0x31 => some .ecbEnc
  | 0x32 => some .ecbDec
  | 0x40 => some .cbcInit
  | 0x41 => some .cbcEnc
  | 0x42 => some .cbcDec
  | 0x43 => some .cbcSetiv
  | 0x50 => some .cfbInit
  | 0x51 => some .cfbEnc
  | 0x52 => some .cfbDec
  | 0x60 => some .ofbInit
  | 0x61 => some .ofbXor
  | 0x70 => some .ctrInit
  | 0x71 => some .ctrXor
  | 0x80 => some .xtsInit
  | 0x81 => some .xtsEnc
  | 0x82 => some .xtsDec
  | 0x90 => some .bcInit
  | 0x91 => some .bcEnc
  | 0x92 => some .bcDec
  | 0x93 => some .bcSetiv
  | 0xA0 => some .ofbnlfInit
  | 0xA1 => some .ofbnlfEnc
  | 0xA2 => some .ofbnlfDec
  | 0xA3 => some .ofbnlfSetiv
  | 0xB0 => some .hctrInit
  | 0xB1 => some .hctrEnc
  | 0xB2 => some .hctrDec
  | 0xC0 => some .gcmInit
  | 0xC1 => some .gcmSeal
  | 0xC2 => some .gcmOpen
  | 0xD0 => some .ccmInit
  | 0xD1 => some .ccmSeal
  | 0xD2 => some .ccmOpen
  | 0xE0 => some .gxmInit
  | 0xE1 => some .gxmSeal
  | 0xE2 => some .gxmOpen
  | 0xF0 => some .murInit
  | 0xF1 => some .murSeal
  | 0xF2 => some .murOpen
  | _ => none

/-- R64: a value is a legal command iff v[63:8] = 0 and v[7:0] is one of the 50 words. -/
def decode (v : DWord) : Except Reject Instr :=
  if v.extractLsb' 8 56 = 0 then
    match commandOfWord (v.extractLsb' 0 8).toNat with
    | some i => .ok i
    | none => .error (.unassignedWord (v.extractLsb' 0 8).toNat)
  else .error .reservedBitsSet

/-- The UNIT number of a command (R62). -/
def Instr.unitNo : Instr → BitVec 4
  | .sysNop | .sysZeroize => 0
  | .sm4Init | .sm4Enc | .sm4Dec | .sm4Encb | .sm4Decb => 1
  | .gfInit | .gfMul | .gfUpd => 2
  | .ecbInit | .ecbEnc | .ecbDec => 3
  | .cbcInit | .cbcEnc | .cbcDec | .cbcSetiv => 4
  | .cfbInit | .cfbEnc | .cfbDec => 5
  | .ofbInit | .ofbXor => 6
  | .ctrInit | .ctrXor => 7
  | .xtsInit | .xtsEnc | .xtsDec => 8
  | .bcInit | .bcEnc | .bcDec | .bcSetiv => 9
  | .ofbnlfInit | .ofbnlfEnc | .ofbnlfDec | .ofbnlfSetiv => 10
  | .hctrInit | .hctrEnc | .hctrDec => 11
  | .gcmInit | .gcmSeal | .gcmOpen => 12
  | .ccmInit | .ccmSeal | .ccmOpen => 13
  | .gxmInit | .gxmSeal | .gxmOpen => 14
  | .murInit | .murSeal | .murOpen => 15

/-- The FUNC number of a command (R63): 0 INIT, 1 forward, 2 reverse, 3 SETIV in the mode units, and as
the rows say in units 0 to 2. -/
def Instr.funcNo : Instr → BitVec 4
  | .sysNop | .sm4Init | .gfInit | .ecbInit | .cbcInit | .cfbInit | .ofbInit | .ctrInit |
    .xtsInit | .bcInit | .ofbnlfInit | .hctrInit | .gcmInit | .ccmInit | .gxmInit | .murInit => 0
  | .sm4Enc | .ecbEnc | .cbcEnc | .cfbEnc | .ofbXor | .ctrXor | .xtsEnc | .bcEnc | .ofbnlfEnc |
    .hctrEnc | .gcmSeal | .ccmSeal | .gxmSeal | .murSeal => 1
  | .sm4Dec | .ecbDec | .cbcDec | .cfbDec | .xtsDec | .bcDec | .ofbnlfDec | .hctrDec | .gcmOpen |
    .ccmOpen | .gxmOpen | .murOpen => 2
  | .cbcSetiv | .bcSetiv | .ofbnlfSetiv => 3
  | .sm4Encb => 4
  | .sm4Decb => 5
  | .gfMul => 6
  | .gfUpd => 7
  | .sysZeroize => 15

/-- The value to write to CMD for a command: UNIT in bits 7:4, FUNC in bits 3:0, the rest 0 (R60). -/
def encode (i : Instr) : DWord := (0#56 ++ i.unitNo) ++ i.funcNo

/-- The command the decoder reads from an opcode-table word of `nbits` bits. A command word is a value
written to CMD, not bytes in memory (20_memory.md R54); the bits above `nbits` are 0. -/
def decodeTableWord (nbits w : Nat) : Option Instr :=
  match decode (BitVec.ofNat 64 (w % 2 ^ nbits)) with
  | .ok i => some i
  | .error _ => none

end Sys2Proof
end

