-- ==== Sys2Proof/Machine/State.lean ====
section
/-! DEFINITION. The architectural state of GMSM-SYMCORE (10_state.md, 20_memory.md R40) and its reset values
(R30, 70_reset_and_hazards.md R270), as plain data. -/

namespace Sys2Proof.Machine

/-- Raised by the step itself, never by a command: a command's errors are codes in STATUS (60_exceptions.md
R243, R244) and end in a next state. -/
inductive Fault where
  /-- The host reads or writes a buffer memory address at or above MEM_SIZE, which does not exist
  (20_memory.md R40). Raised by the host's `loadByte` and `storeByte` accesses only. Safe: the model stops
  where the spec gives no behaviour (log 6). -/
  | noSuchAddress (addr : Nat)
deriving DecidableEq, Repr

/-- Raised for a command without a meaning. Every command has one, so nothing raises it. -/
inductive Refusal where
  /-- Reserved by the host's interface for a command not modelled yet; no arm of `exec` answers with it. Safe. -/
  | notModelled (mnemonic : String)
deriving DecidableEq, Repr

/-- The errors of 60_exceptions.md R241, by the names of its table. -/
inductive Err where
  | blockSize | ivLen | dstShort | overlap | notBlocks | tooLong | nonceLen | srcShort
  | illegal | seq | bus
  | auth | tagSize | nonceSize | keySize | stream | unsupported
deriving DecidableEq, Repr

/-- The mode units, 3 to 15 of 30_encoding.md R62: the ones an INIT command binds (10_state.md R23). -/
inductive ModeUnit where
  | ecb | cbc | cfb | ofb | ctr | xts | bc | ofbnlf | hctr | gcm | ccm | gxm | mur
deriving DecidableEq, Repr

/-- A key-schedule context: its valid bit and the two arrays of 32 round words (10_state.md R20). -/
structure KeySchedule where
  valid : Bool
  enc : List Word
  dec : List Word
deriving DecidableEq, Repr

/-- A schedule context that holds nothing: valid bit 0, all 64 words 0 (10_state.md R30). -/
def KeySchedule.empty : KeySchedule where
  valid := false
  enc := List.replicate 32 0
  dec := List.replicate 32 0

/-- An element of GF(2^128): "A pair of 64-bit words (low, high)", the coefficient of x^0 the most
significant bit of `low` (10_state.md R22). -/
structure Elem where
  low : DWord
  high : DWord
deriving DecidableEq, Repr

/-- The element (0, 0). -/
def Elem.zero : Elem where
  low := 0
  high := 0

/-- The buffer memory: the bytes that differ from what an unlisted address reads as, addresses strictly
rising (`Memory.wf`; log 1). -/
abbrev Memory := List Host.Cell

/-- What reaches the core from outside, one at a time and only between commands: the host's three kinds of
access (10_state.md R10), and the reset event (70_reset_and_hazards.md R270). Memory accesses are made one
byte at a time (log 2). -/
inductive HostEvent where
  /-- the host writes host register number `no`; number 0 is CMD and issues a command -/
  | writeReg (no : Nat) (v : DWord)
  /-- the host reads host register number `no` -/
  | readReg (no : Nat)
  /-- the host stores a byte to buffer memory -/
  | storeByte (addr : Nat) (b : Byte)
  /-- the host reads a byte of buffer memory -/
  | loadByte (addr : Nat)
  /-- the reset event -/
  | reset
deriving DecidableEq, Repr

/-- The state of the core, its buffer memory and what the host has still to do. -/
structure State where
  /-- the parameters of this hardware instance (00_scope.md R5); no step writes them -/
  params : Params
  /-- register 2 (10_state.md R16) -/
  srcAddr : DWord
  /-- register 3 -/
  srcLen : DWord
  /-- register 4 -/
  dstAddr : DWord
  /-- register 5 -/
  dstCap : DWord
  /-- register 6 -/
  aadAddr : DWord
  /-- register 7 -/
  aadLen : DWord
  /-- register 8 -/
  ivAddr : DWord
  /-- register 9 -/
  ivLen : DWord
  /-- register 10 -/
  keyAddr : DWord
  /-- register 11 -/
  keyLen : DWord
  /-- register 12 -/
  auxAddr : DWord
  /-- register 13 -/
  auxLen : DWord
  /-- register 14 bits 7:0, CFG.TAGLEN (10_state.md R18) -/
  cfgTagLen : BitVec 8
  /-- register 14 bit 8, CFG.DIALECT (10_state.md R18) -/
  cfgDialect : BitVec 1
  /-- register 15, OUT_LEN -/
  outLen : DWord
  /-- registers 16 and 17, Y_LO = `y.low` and Y_HI = `y.high` (10_state.md R22) -/
  y : Elem
  /-- STATUS.ERR: the error of the last command, `none` for success, code 0 (10_state.md R17) -/
  err : Option Err
  /-- STATUS.FAULT -/
  fault : Bool
  /-- KS0; its valid bit is STATUS.KS0V (10_state.md R20) -/
  ks0 : KeySchedule
  /-- KS1; its valid bit is STATUS.KS1V -/
  ks1 : KeySchedule
  /-- STATUS.TBLV -/
  tblV : Bool
  /-- TBL: the product table, 16 elements (10_state.md R21) -/
  tbl : List Elem
  /-- ACTIVE: the bound unit, `none` for 0 (10_state.md R23) -/
  active : Option ModeUnit
  /-- IV (10_state.md R24) -/
  iv : Block
  /-- KSB (10_state.md R25) -/
  ksb : Block
  /-- KPOS, 0 to 16 (10_state.md R25) -/
  kpos : Nat
  /-- TAGLEN_L, 0 to 16, register 19 TAG_SIZE (10_state.md R26; log 10) -/
  tagLenL : BitVec 8
  /-- NONCELEN_L, register 20 NONCE_SIZE (10_state.md R26) -/
  nonceLenL : DWord
  /-- DIAL_L (10_state.md R26) -/
  dialL : BitVec 1
  /-- SPOS (10_state.md R26) -/
  spos : DWord
  /-- the buffer memory (20_memory.md R40) -/
  mem : Memory
  /-- the model's own: host accesses and reset events still to come, first first (log 2) -/
  pending : List HostEvent
  /-- the model's own: what the host's last read returned (log 5) -/
  readData : DWord
deriving DecidableEq, Repr

/-- The machine right after reset (10_state.md R30, 70_reset_and_hazards.md R270): every register and context
0, KPOS 16. The parameters are the spec's defaults (log 3), the memory lists nothing (log 1), and the two
fields of the model's own are empty (log 2, log 5). -/
def State.reset : State where
  params := Params.ofSpec
  srcAddr := 0
  srcLen := 0
  dstAddr := 0
  dstCap := 0
  aadAddr := 0
  aadLen := 0
  ivAddr := 0
  ivLen := 0
  keyAddr := 0
  keyLen := 0
  auxAddr := 0
  auxLen := 0
  cfgTagLen := 0
  cfgDialect := 0
  outLen := 0
  y := Elem.zero
  err := none
  fault := false
  ks0 := KeySchedule.empty
  ks1 := KeySchedule.empty
  tblV := false
  tbl := List.replicate 16 Elem.zero
  active := none
  iv := 0
  ksb := 0
  kpos := 16
  tagLenL := 0
  nonceLenL := 0
  dialL := 0
  spos := 0
  mem := []
  pending := []
  readData := 0

end Sys2Proof.Machine
end

