-- ==== Sys2Proof/Machine/Bytes.lean ====
section
/-! DEFINITION. Byte strings and the values read from and written to them (00_scope.md R7, 20_memory.md R45). -/

namespace Sys2Proof.Machine

/-- `be(n, v)`: the n-byte big-endian string of v (R7), which R7 defines for v below 2^(8n). The one
place where a rule's v can be larger is a length in bits: `bitLength`, log 11. -/
def be : Nat → Nat → Bytes
  | 0, _ => []
  | n + 1, v => be n (v / 256) ++ [BitVec.ofNat 8 v]

/-- The natural number a byte string is, read big-endian (R7: `BE32`, `BE64` and 43_block_stream_modes.md
R164's `BE128` by length). -/
def beVal (bs : Bytes) : Nat := bs.foldl (fun v b => v * 256 + b.toNat) 0

/-- n zero bytes (R7). -/
def zeros (n : Nat) : Bytes := List.replicate n 0

/-- XOR of two byte strings, bytewise (R7). Where one is a keystream block and the other a short last piece,
the leading bytes of the longer are used (42_gcm.md R125). -/
def xorBytes (a b : Bytes) : Bytes := List.zipWith (· ^^^ ·) a b

/-- `zeros` appended to a string of up to 16 bytes to make it 16 long. -/
def padBlock (bs : Bytes) : Bytes := bs ++ zeros (16 - bs.length)

/-- The block a 16-byte string is; a shorter string is zero-padded on the right (41_gf128.md R107). -/
def blockOf (bs : Bytes) : Block := BitVec.ofNat 128 (beVal (padBlock (bs.take 16)))

/-- The 16 bytes of a block, byte 0 the most significant. -/
def bytesOf (b : Block) : Bytes := be 16 b.toNat

/-- Byte j of a block, counting from 0 at the most significant end. -/
def blockByte (b : Block) (j : Nat) : Byte := b.extractLsb' (8 * (15 - j)) 8

/-- A block with byte j replaced. -/
def setBlockByte (b : Block) (j : Nat) (v : Byte) : Block :=
  (b &&& ~~~(255#128 <<< (8 * (15 - j)))) ||| ((v.setWidth 128) <<< (8 * (15 - j)))

/-- k consecutive 16-byte pieces of a byte string, the last one short if the string ends inside it. -/
def pieces : Nat → Bytes → List Bytes
  | 0, _ => []
  | k + 1, bs => bs.take 16 :: pieces k (bs.drop 16)

/-- `data[16k : min(16k+16, n)]` for k in 0..ceil(n/16)-1 (41_gf128.md R107). -/
def chunks16 (bs : Bytes) : List Bytes := pieces ((bs.length + 15) / 16) bs

/-- The blocks of a byte string, `src_i` for 0 <= i < m (43_block_stream_modes.md R142); a short last one is
zero-padded. -/
def blocksOf (bs : Bytes) : List Block := (chunks16 bs).map blockOf

/-- The byte string of a list of blocks. -/
def bytesOfBlocks (bs : List Block) : Bytes := bs.flatMap bytesOf

/-- `ZeroPad16(s)`: the fewest zero bytes that make the length a multiple of 16 (45_ccm_gxm_mur.md R205). -/
def zeroPad16 (bs : Bytes) : Bytes := bs ++ zeros ((16 - bs.length % 16) % 16)

end Sys2Proof.Machine
end

