-- ==== Sys2Proof/Machine/Flags.lean ====
section
/-! DEFINITION. The error codes and classes (60_exceptions.md R240, R241) and the STATUS register, the only
flags of this hardware (10_state.md R17, R28). -/

namespace Sys2Proof.Machine

/-- The value of STATUS.ERR for an error (R241). -/
def errCode : Err → BitVec 8
  | .blockSize => 0x01
  | .ivLen => 0x02
  | .dstShort => 0x03
  | .overlap => 0x04
  | .notBlocks => 0x05
  | .tooLong => 0x06
  | .nonceLen => 0x07
  | .srcShort => 0x08
  | .illegal => 0x09
  | .seq => 0x0A
  | .bus => 0x0B
  | .auth => 0x10
  | .tagSize => 0x11
  | .nonceSize => 0x12
  | .keySize => 0x13
  | .stream => 0x14
  | .unsupported => 0x15

/-- The error is of class P, a programmer error; otherwise it is of class R, recoverable (R240, R241). -/
def isClassP : Err → Bool
  | .blockSize | .ivLen | .dstShort | .overlap | .notBlocks | .tooLong | .nonceLen | .srcShort
  | .illegal | .seq | .bus => true
  | .auth | .tagSize | .nonceSize | .keySize | .stream | .unsupported => false

/-- The unit number of a mode unit (30_encoding.md R62). -/
def modeUnitNo : ModeUnit → BitVec 4
  | .ecb => 3
  | .cbc => 4
  | .cfb => 5
  | .ofb => 6
  | .ctr => 7
  | .xts => 8
  | .bc => 9
  | .ofbnlf => 10
  | .hctr => 11
  | .gcm => 12
  | .ccm => 13
  | .gxm => 14
  | .mur => 15

/-- STATUS.ERR, bits 7:0: 0 for success (R17). -/
def errField (s : State) : BitVec 8 :=
  match s.err with
  | none => 0
  | some e => errCode e

/-- STATUS.ACTIVE, bits 15:12: 0 for none (R17, R23). -/
def activeField (s : State) : BitVec 4 :=
  match s.active with
  | none => 0
  | some u => modeUnitNo u

/-- The STATUS register (R17): ERR 7:0, FAULT 8, KS0V 9, KS1V 10, TBLV 11, ACTIVE 15:12, the rest 0. -/
def statusReg (s : State) : DWord :=
  (errField s).setWidth 64
    ||| ((BitVec.ofBool s.fault).setWidth 64 <<< 8)
    ||| ((BitVec.ofBool s.ks0.valid).setWidth 64 <<< 9)
    ||| ((BitVec.ofBool s.ks1.valid).setWidth 64 <<< 10)
    ||| ((BitVec.ofBool s.tblV).setWidth 64 <<< 11)
    ||| ((activeField s).setWidth 64 <<< 12)

/-- The CFG register (10_state.md R18): TAGLEN 7:0, DIALECT 8, the rest 0. -/
def cfgReg (s : State) : DWord := s.cfgTagLen.setWidth 64 ||| (s.cfgDialect.setWidth 64 <<< 8)

/-- The INFO register (10_state.md R19): CONC 7:0, block size 16 in 15:8, interface version 1 in 31:16. -/
def infoReg (s : State) : DWord :=
  (BitVec.ofNat 8 s.params.conc).setWidth 64 ||| (16#64 <<< 8) ||| (1#64 <<< 16)

end Sys2Proof.Machine
end

