-- ==== Sys2Proof/Machine/Ops.lean ====
section
/-! DEFINITION. The shared operations: buffer memory (20_memory.md), host registers (10_state.md R16),
raising an error and ending a command (60_exceptions.md R243, R244; 30_encoding.md R66), Unbind
(10_state.md R27). -/

namespace Sys2Proof.Machine

/-! ## Buffer memory -/

/-- What a buffer memory byte reads as that nothing has written: the spec leaves it open (93 I20), the model
fixes 0. DESIGN CHOICE, log 1: unsafe for statements about the reset state's memory. -/
def unlistedByte : Byte := 0

/-- The byte at an address. -/
def Memory.read : Memory → Nat → Byte
  | [], _ => unlistedByte
  | (a', b) :: m, a => if a' = a then b else Memory.read m a

/-- The memory with one byte written, in canonical form. -/
def Memory.write : Memory → Nat → Byte → Memory
  | [], a, b => if b = unlistedByte then [] else [(a, b)]
  | (a', b') :: m, a, b =>
    if a < a' then
      if b = unlistedByte then (a', b') :: m else (a, b) :: (a', b') :: m
    else if a = a' then
      if b = unlistedByte then m else (a, b) :: m
    else (a', b') :: Memory.write m a b

/-- The canonical form: addresses strictly rising, no byte equal to what an unlisted address reads as. -/
abbrev Memory.wf (m : Memory) : Prop :=
  m.Pairwise (fun c d => c.1 < d.1) ∧ ∀ c ∈ m, c.2 ≠ unlistedByte

/-- `MemRead(addr, n)` (20_memory.md R41). -/
def Memory.readBytes (m : Memory) (a : Nat) : Nat → Bytes
  | 0 => []
  | n + 1 => m.read a :: Memory.readBytes m (a + 1) n

/-- `MemWrite(addr, n, v)`, n the length of v (20_memory.md R42). -/
def Memory.writeBytes (m : Memory) (a : Nat) : Bytes → Memory
  | [] => m
  | b :: bs => Memory.writeBytes (m.write a b) (a + 1) bs

/-- A region (addr, n) of unbounded naturals (20_memory.md R44). -/
structure Region where
  addr : Nat
  len : Nat
deriving DecidableEq, Repr

/-- `RegionOK(addr, n)` (20_memory.md R44): empty, or inside the buffer memory, with no wrap-around. -/
def regionOk (memSize : Nat) (r : Region) : Bool := r.len == 0 || decide (r.addr + r.len ≤ memSize)

/-- `InexactOverlap` of two regions (20_memory.md R48). -/
def inexactOverlap (r q : Region) : Bool :=
  decide (r.len > 0) && decide (q.len > 0) && decide (r.addr ≠ q.addr)
    && decide (r.addr < q.addr + q.len) && decide (q.addr < r.addr + r.len)

/-- `MemWrite` on the state's buffer memory. -/
def State.storeBytes (s : State) (a : Nat) (bs : Bytes) : State :=
  { s with mem := s.mem.writeBytes a bs }

/-! ## Ending a command -/

/-- What a command answers. Every command ends in a next state: its errors are STATUS codes. -/
abbrev Result := Host.Outcome State Fault Refusal

/-- The end of a command without error: ERR <- 0, OUT_LEN <- n (30_encoding.md R66 step 6). -/
def State.finish (s : State) (n : Nat) : State :=
  { s with err := none, outLen := BitVec.ofNat 64 n }

/-- Taking an error, this hardware's exception entry: ERR <- code, OUT_LEN <- 0, and FAULT <- 1 if it is of
class P (60_exceptions.md R243), FAULT unchanged if of class R (R244). -/
def State.raise (s : State) (e : Err) : State :=
  { s with err := some e, fault := s.fault || isClassP e, outLen := 0 }

/-- One check of a command: the error it raises and whether it fails. -/
structure Check where
  err : Err
  fails : Bool
deriving DecidableEq, Repr

/-- `if c: raise e`. -/
def failIf (c : Bool) (e : Err) : Check := ⟨e, c⟩

/-- The error of the first check that fails (60_exceptions.md R247). -/
def firstError : List Check → Option Err
  | [] => none
  | c :: cs => if c.fails then some c.err else firstError cs

/-- The skeleton of every command (30_encoding.md R66): ignored while FAULT = 1 (60_exceptions.md R242); else
the first failing check raises its error (R247); else the command's own effect. Inlined, so that running the
model computes the effect only where no check fails. -/
@[always_inline, inline]
def State.command (s : State) (checks : List Check) (effect : State) : State :=
  if s.fault then s
  else
    match firstError checks with
    | some e => s.raise e
    | none => effect

/-! ## Mode context -/

/-- `Unbind()` (10_state.md R27). -/
def State.unbind (s : State) : State :=
  { s with
    active := none
    iv := 0
    ksb := 0
    kpos := 16
    tagLenL := 0
    nonceLenL := 0
    dialL := 0
    spos := 0 }

/-! ## Host registers -/

/-- A host read of a register (10_state.md R16): CMD reads 0, a number above 20 reads 0. -/
def State.readReg (s : State) : Nat → DWord
  | 1 => statusReg s
  | 2 => s.srcAddr
  | 3 => s.srcLen
  | 4 => s.dstAddr
  | 5 => s.dstCap
  | 6 => s.aadAddr
  | 7 => s.aadLen
  | 8 => s.ivAddr
  | 9 => s.ivLen
  | 10 => s.keyAddr
  | 11 => s.keyLen
  | 12 => s.auxAddr
  | 13 => s.auxLen
  | 14 => cfgReg s
  | 15 => s.outLen
  | 16 => s.y.low
  | 17 => s.y.high
  | 18 => infoReg s
  | 19 => s.tagLenL.setWidth 64
  | 20 => s.nonceLenL
  | _ => 0

/-- A host write of a register other than CMD (10_state.md R16, R18): read-only registers, reserved bits of
CFG and numbers above 20 ignore the write. A write of number 0 is a command and does not come here. -/
def State.writeReg (s : State) (no : Nat) (v : DWord) : State :=
  match no with
  | 2 => { s with srcAddr := v }
  | 3 => { s with srcLen := v }
  | 4 => { s with dstAddr := v }
  | 5 => { s with dstCap := v }
  | 6 => { s with aadAddr := v }
  | 7 => { s with aadLen := v }
  | 8 => { s with ivAddr := v }
  | 9 => { s with ivLen := v }
  | 10 => { s with keyAddr := v }
  | 11 => { s with keyLen := v }
  | 12 => { s with auxAddr := v }
  | 13 => { s with auxLen := v }
  | 14 => { s with cfgTagLen := v.extractLsb' 0 8, cfgDialect := v.extractLsb' 8 1 }
  | 16 => { s with y := { s.y with low := v } }
  | 17 => { s with y := { s.y with high := v } }
  | _ => s

/-- The reset event (10_state.md R30, 70_reset_and_hazards.md R270, R271): every register and context at its
reset value; the buffer memory, the instance's parameters and what the host has still to do are not reset. -/
def State.resetEvent (s : State) : State :=
  { State.reset with params := s.params, mem := s.mem, pending := s.pending, readData := s.readData }

end Sys2Proof.Machine
end

