-- ==== Sys2Proof/Machine/Cipher.lean ====
section
/-! DEFINITION. The SM4 block cipher (40_sm4.md R80 to R89): constants, transforms, key expansion, block function. -/

namespace Sys2Proof.Machine

/-- The rows of the S-box table of R81: row = high nibble of the input, the 16 entries left to right. -/
def sboxRows : List Block :=
  [0xD690E9FECCE13DB716B614C228FB2C05,
   0x2B679A762ABE04C3AA44132649860699,
   0x9C4250F491EF987A33540B43EDCFAC62,
   0xE4B31CA9C908E89580DF94FA758F3FA6,
   0x4707A7FCF37317BA83593C19E6854FA8,
   0x686B81B27164DA8BF8EB0F4B70569D35,
   0x1E240E5E6358D1A225227C3B01217887,
   0xD40046579FD327524C3602E7A0C4C89E,
   0xEABF8AD240C738B5A3F7F2CEF96115A1,
   0xE0AE5DA49B341A55AD933230F58CB1E3,
   0x1DF6E22E8266CA60C02923AB0D534E6F,
   0xD5DB3745DEFD8E2F03FF6A726D6C5B51,
   0x8D1BAF92BBDDBC7F11D95C411F105AD8,
   0x0AC13188A5CD7BBD2D74D012B8E5B4B0,
   0x8969974A0C96777E65B9F109C56EC684,
   0x18F07DEC3ADC4D2079EE5F3ED7CB3948]

/-- `SBOX[x]` (R81): row = high nibble, column = low nibble. -/
def sbox (x : Byte) : Byte := blockByte (sboxRows.getD (x.toNat / 16) 0) (x.toNat % 16)

/-- The round constants `CK[0..31]` (R83). -/
def ckTable : List Word :=
  [0x00070E15, 0x1C232A31, 0x383F464D, 0x545B6269,
   0x70777E85, 0x8C939AA1, 0xA8AFB6BD, 0xC4CBD2D9,
   0xE0E7EEF5, 0xFC030A11, 0x181F262D, 0x343B4249,
   0x50575E65, 0x6C737A81, 0x888F969D, 0xA4ABB2B9,
   0xC0C7CED5, 0xDCE3EAF1, 0xF8FF060D, 0x141B2229,
   0x30373E45, 0x4C535A61, 0x686F767D, 0x848B9299,
   0xA0A7AEB5, 0xBCC3CAD1, 0xD8DFE6ED, 0xF4FB0209,
   0x10171E25, 0x2C333A41, 0x484F565D, 0x646B7279]

/-- Four consecutive words of an SM4 iteration, oldest first. -/
structure Quad where
  a : Word
  b : Word
  c : Word
  d : Word
deriving DecidableEq, Repr

/-- `FK[0..3]` (R82). -/
def fk : Quad := ⟨0xA3B1BAC6, 0x56AA3350, 0x677D9197, 0xB27022DC⟩

/-- τ: the S-box on each byte of a word, in place (R84). -/
def tau (x : Word) : Word :=
  sbox (x.extractLsb' 24 8) ++ sbox (x.extractLsb' 16 8) ++ sbox (x.extractLsb' 8 8) ++ sbox (x.extractLsb' 0 8)

/-- L, the linear transform of the data path (R85). -/
def linL (y : Word) : Word :=
  y ^^^ y.rotateLeft 2 ^^^ y.rotateLeft 10 ^^^ y.rotateLeft 18 ^^^ y.rotateLeft 24

/-- L′, the linear transform of the key schedule (R85). -/
def linL' (y : Word) : Word := y ^^^ y.rotateLeft 13 ^^^ y.rotateLeft 23

/-- `T(x) = L(τ(x))` (R85). -/
def mixT (x : Word) : Word := linL (tau x)

/-- `T′(x) = L′(τ(x))` (R85). -/
def mixT' (x : Word) : Word := linL' (tau x)

/-- The four big-endian words of a block (20_memory.md R45). -/
def quadOf (b : Block) : Quad :=
  ⟨b.extractLsb' 96 32, b.extractLsb' 64 32, b.extractLsb' 32 32, b.extractLsb' 0 32⟩

/-- The block of four words, the first one leftmost. -/
def blockOfQuad (q : Quad) : Block := q.a ++ q.b ++ q.c ++ q.d

/-- The round keys `K[4], ..., K[35]` in order, one for each constant left (R87):
`K[i+4] = K[i] ⊕ T′(K[i+1] ⊕ K[i+2] ⊕ K[i+3] ⊕ CK[i])`. -/
def expandWords (k : Quad) : List Word → List Word
  | [] => []
  | ck :: cks =>
    let w := k.a ^^^ mixT' (k.b ^^^ k.c ^^^ k.d ^^^ ck)
    w :: expandWords ⟨k.b, k.c, k.d, w⟩ cks

/-- `K[i] = MK[i] ⊕ FK[i]` for i in 0..3 (R87). -/
def whitenKey (mk : Quad) : Quad := ⟨mk.a ^^^ fk.a, mk.b ^^^ fk.b, mk.c ^^^ fk.c, mk.d ^^^ fk.d⟩

/-- The 32 words `enc[0..31]` of a key (R87). -/
def roundKeys (key : Block) : List Word := expandWords (whitenKey (quadOf key)) ckTable

/-- `KeyExp(key)` (R87): a valid schedule, `dec[i] = enc[31-i]`. -/
def keyExp (key : Block) : KeySchedule where
  valid := true
  enc := roundKeys key
  dec := (roundKeys key).reverse

/-- One round (R88): `X[i+4] = X[i] ⊕ T(X[i+1] ⊕ X[i+2] ⊕ X[i+3] ⊕ rk[i])`. -/
def sm4Round (x : Quad) (rk : Word) : Quad := ⟨x.b, x.c, x.d, x.a ^^^ mixT (x.b ^^^ x.c ^^^ x.d ^^^ rk)⟩

/-- The words in the opposite order: the output is `X[35] X[34] X[33] X[32]` (R88). -/
def reverseQuad (x : Quad) : Quad := ⟨x.d, x.c, x.b, x.a⟩

/-- `Crypt(rk, b)` (R88). -/
def crypt (rk : List Word) (b : Block) : Block :=
  blockOfQuad (reverseQuad (rk.foldl sm4Round (quadOf b)))

/-- `E(ks, b)` (R88). -/
def encryptBlock (ks : KeySchedule) (b : Block) : Block := crypt ks.enc b

/-- `D(ks, b)` (R89). -/
def decryptBlock (ks : KeySchedule) (b : Block) : Block := crypt ks.dec b

end Sys2Proof.Machine
end

