-- ==== Sys2Proof/Machine/Operands.lean ====
section
/-! DEFINITION. Operand assembly (30_encoding.md R61, 47_arithmetic_and_access_laws.md R236): every memory
operand is a region, its address a host register, its length a register, a constant of the command, or a value
derived from SRC_LEN and TAGLEN_L. Registers are unsigned, unscaled, and sums are unbounded (R232). -/

namespace Sys2Proof.Machine

/-- The six address/length register pairs (10_state.md R16, registers 2 to 13). -/
inductive Operand where
  | src | dst | aad | iv | key | aux
deriving DecidableEq, Repr

/-- The value of an address register. -/
def State.addr (s : State) : Operand → Nat
  | .src => s.srcAddr.toNat
  | .dst => s.dstAddr.toNat
  | .aad => s.aadAddr.toNat
  | .iv => s.ivAddr.toNat
  | .key => s.keyAddr.toNat
  | .aux => s.auxAddr.toNat

/-- The value of a length register; for `dst`, DST_CAP. -/
def State.len (s : State) : Operand → Nat
  | .src => s.srcLen.toNat
  | .dst => s.dstCap.toNat
  | .aad => s.aadLen.toNat
  | .iv => s.ivLen.toNat
  | .key => s.keyLen.toNat
  | .aux => s.auxLen.toNat

/-- The region of n bytes at an operand's address. -/
def State.region (s : State) (o : Operand) (n : Nat) : Region := ⟨s.addr o, n⟩

/-- The region an operand's two registers give. -/
def State.whole (s : State) (o : Operand) : Region := s.region o (s.len o)

/-- The first n bytes of an operand, as the memory is now: at the start of the command (20_memory.md R46). -/
def State.fetch (s : State) (o : Operand) (n : Nat) : Bytes := s.mem.readBytes (s.addr o) n

/-- All bytes of an operand. -/
def State.fetchAll (s : State) (o : Operand) : Bytes := s.fetch o (s.len o)

/-- The first 16 bytes of an operand, as a block. -/
def State.fetchBlock (s : State) (o : Operand) : Block := blockOf (s.fetch o 16)

/-- The result written to dst, and the command ended: OUT_LEN is its length (20_memory.md R49). -/
def State.deliver (s : State) (out : Bytes) : State :=
  (s.storeBytes (s.addr .dst) out).finish out.length

/-- Authentication failure after a tag mismatch (42_gcm.md R132): n zero bytes to dst, then E_AUTH. -/
def State.authFailure (s : State) (n : Nat) : State :=
  (s.storeBytes (s.addr .dst) (zeros n)).raise .auth

/-- `if not RegionOK for ...: raise E_BUS` (20_memory.md R44). -/
def State.busCheck (s : State) (rs : List Region) : Check :=
  failIf (!rs.all (regionOk s.params.memSize)) .bus

/-- `if InexactOverlap(DST_ADDR, n, SRC_ADDR, m): raise E_OVERLAP` (20_memory.md R48). -/
def State.overlapCheck (s : State) (n m : Nat) : Check :=
  failIf (inexactOverlap (s.region .dst n) (s.region .src m)) .overlap

/-- `if reg[DST_CAP] < n: raise E_DST_SHORT` (20_memory.md R49). -/
def State.capCheck (s : State) (n : Nat) : Check := failIf (s.len .dst < n) .dstShort

/-- `if <the needed contexts are valid and the unit is bound> fails: raise E_SEQ` (30_encoding.md R66). -/
def seqCheck (ok : Bool) : Check := failIf (!ok) .seq

/-- The unit is the bound one (10_state.md R23). -/
def State.bound (s : State) (u : ModeUnit) : Bool := s.active == some u

/-- CFG.TAGLEN, zero-extended (30_encoding.md R61). -/
def State.cfgTag (s : State) : Nat := s.cfgTagLen.toNat

/-- TAGLEN_L as a length. -/
def State.tagLen (s : State) : Nat := s.tagLenL.toNat

end Sys2Proof.Machine
end

