-- ==== Sys2Proof/Machine/ModeShared.lean ====
section
/-! DEFINITION. The shared procedures of the mode units (43_block_stream_modes.md R140 to R144). -/

namespace Sys2Proof.Machine

/-- The binding made by an INIT: `Unbind()`, then ACTIVE <- u (10_state.md R27). -/
def State.bind (s : State) (u : ModeUnit) : State := { s.unbind with active := some u }

/-- `InitIV(u)` (R141). -/
def initIv (u : ModeUnit) (s : State) : Result :=
  .next <| s.command
    [seqCheck s.ks0.valid,
     failIf (s.len .iv ≠ 16) .ivLen,
     s.busCheck [s.region .iv 16]]
    (State.finish { s.bind u with iv := s.fetchBlock .iv } 0)

/-- `SetIV(u)` (R144). -/
def setIv (u : ModeUnit) (s : State) : Result :=
  .next <| s.command
    [seqCheck (s.bound u),
     failIf (s.len .iv ≠ 16) .ivLen,
     s.busCheck [s.region .iv 16]]
    (State.finish { s with iv := s.fetchBlock .iv } 0)

/-- The last three checks of a data command on windows of n bytes: capacity, address range, overlap (R142). -/
def windowChecks (s : State) (n : Nat) : List Check :=
  [s.capCheck n,
   s.busCheck [s.region .src n, s.region .dst n],
   s.overlapCheck n n]

/-- `BlockChecks(u)` (R142). -/
def blockChecks (u : ModeUnit) (s : State) : List Check :=
  seqCheck (s.bound u && s.ks0.valid)
    :: failIf (s.len .src % 16 ≠ 0) .notBlocks
    :: windowChecks s (s.len .src)

/-- `StreamChecks(u)` (R143): as R142 without the E_NOT_BLOCKS line. -/
def streamChecks (u : ModeUnit) (s : State) : List Check :=
  seqCheck (s.bound u && s.ks0.valid) :: windowChecks s (s.len .src)

/-- Run a block mode over the blocks of src in order: each step takes the running value and the input block
to the next running value and the output block. -/
def chain (step : Block → Block → Block × Block) : Block → List Block → Block × List Block
  | v, [] => (v, [])
  | v, b :: bs =>
    let (v', o) := step v b
    let (v'', os) := chain step v' bs
    (v'', o :: os)

/-- A `crypt_blocks` command with running value IV (R142). -/
def blockCommand (u : ModeUnit) (step : Block → Block → Block × Block) (s : State) : Result :=
  let r := chain step s.iv (blocksOf (s.fetchAll .src))
  .next <| s.command (blockChecks u s) (State.deliver { s with iv := r.1 } (bytesOfBlocks r.2))

/-- The running state of the byte-granular units (10_state.md R24, R25). -/
structure StreamCtx where
  iv : Block
  ksb : Block
  kpos : Nat
deriving DecidableEq, Repr

/-- Run a stream mode over bytes in order. -/
def streamRun (step : StreamCtx → Byte → StreamCtx × Byte) : StreamCtx → Bytes → StreamCtx × Bytes
  | c, [] => (c, [])
  | c, b :: bs =>
    let (c', o) := step c b
    let (c'', os) := streamRun step c' bs
    (c'', o :: os)

/-- The running stream state of the bound unit. -/
def State.streamCtx (s : State) : StreamCtx := ⟨s.iv, s.ksb, s.kpos⟩

/-- The bound unit's running stream state replaced. -/
def State.withStreamCtx (s : State) (c : StreamCtx) : State := { s with iv := c.iv, ksb := c.ksb, kpos := c.kpos }

/-- An `xor_keystream` command (R143). -/
def streamCommand (u : ModeUnit) (step : StreamCtx → Byte → StreamCtx × Byte) (s : State) : Result :=
  let r := streamRun step s.streamCtx (s.fetchAll .src)
  .next <| s.command (streamChecks u s) ((s.withStreamCtx r.1).deliver r.2)

end Sys2Proof.Machine
end

