-- ==== Sys2Proof/Machine/BlockModes.lean ====
section
/-! DEFINITION. The block mode units ECB, CBC, BC, OFBNLF (43_block_stream_modes.md R145 to R152, R165 to R173). -/

namespace Sys2Proof.Machine

/-! ## ECB -/

/-- ECB.INIT (R145): no IV operand. -/
def execEcbInit (s : State) : Result :=
  .next <| s.command [seqCheck s.ks0.valid] ((s.bind .ecb).finish 0)

/-- A command that applies a cipher to each block of src on its own and writes no context (R146, R147). -/
def ecbCommand (cipher : Block → Block) (s : State) : Result :=
  .next <| s.command (blockChecks .ecb s)
    (s.deliver (bytesOfBlocks ((blocksOf (s.fetchAll .src)).map cipher)))

/-- ECB.ENC (R146). -/
def execEcbEnc (s : State) : Result := ecbCommand (encryptBlock s.ks0) s

/-- ECB.DEC (R147). -/
def execEcbDec (s : State) : Result := ecbCommand (decryptBlock s.ks0) s

/-! ## CBC -/

/-- CBC.INIT (R149). -/
def execCbcInit (s : State) : Result := initIv .cbc s

/-- One block of CBC encryption (R150): `out_i = E(KS0, src_i ⊕ prev)`, prev <- out_i. -/
def cbcEncStep (ks : KeySchedule) (prev p : Block) : Block × Block :=
  let c := encryptBlock ks (p ^^^ prev)
  (c, c)

/-- One block of CBC decryption (R151): `out_i = D(KS0, src_i) ⊕ prev`, prev <- src_i. -/
def cbcDecStep (ks : KeySchedule) (prev c : Block) : Block × Block := (c, decryptBlock ks c ^^^ prev)

/-- CBC.ENC (R150). -/
def execCbcEnc (s : State) : Result := blockCommand .cbc (cbcEncStep s.ks0) s

/-- CBC.DEC (R151). -/
def execCbcDec (s : State) : Result := blockCommand .cbc (cbcDecStep s.ks0) s

/-- CBC.SETIV (R152). -/
def execCbcSetiv (s : State) : Result := setIv .cbc s

/-! ## BC -/

/-- BC.INIT (R165). -/
def execBcInit (s : State) : Result := initIv .bc s

/-- One block of BC encryption (R166): `C = E(K, P ⊕ F)`, F <- F ⊕ C. -/
def bcEncStep (ks : KeySchedule) (f p : Block) : Block × Block :=
  let c := encryptBlock ks (p ^^^ f)
  (f ^^^ c, c)

/-- One block of BC decryption (R167): `P = D(K, C) ⊕ F`, F <- F ⊕ C. -/
def bcDecStep (ks : KeySchedule) (f c : Block) : Block × Block := (f ^^^ c, decryptBlock ks c ^^^ f)

/-- BC.ENC (R166). -/
def execBcEnc (s : State) : Result := blockCommand .bc (bcEncStep s.ks0) s

/-- BC.DEC (R167). -/
def execBcDec (s : State) : Result := blockCommand .bc (bcDecStep s.ks0) s

/-- BC.SETIV (R168). -/
def execBcSetiv (s : State) : Result := setIv .bc s

/-! ## OFBNLF -/

/-- OFBNLF.INIT (R170). -/
def execOfbnlfInit (s : State) : Result := initIv .ofbnlf s

/-- One block of OFBNLF (R171, R172): `K = E(KS0, S)` is the key of the transient schedule KST that enciphers
or deciphers the block, and the next S. -/
def ofbnlfStep (cipher : KeySchedule → Block → Block) (ks : KeySchedule) (v b : Block) : Block × Block :=
  let k := encryptBlock ks v
  (k, cipher (keyExp k) b)

/-- OFBNLF.ENC (R171). -/
def execOfbnlfEnc (s : State) : Result := blockCommand .ofbnlf (ofbnlfStep encryptBlock s.ks0) s

/-- OFBNLF.DEC (R172): the inner cipher is inverted, the outer never. -/
def execOfbnlfDec (s : State) : Result := blockCommand .ofbnlf (ofbnlfStep decryptBlock s.ks0) s

/-- OFBNLF.SETIV (R173). -/
def execOfbnlfSetiv (s : State) : Result := setIv .ofbnlf s

end Sys2Proof.Machine
end

