-- ==== Sys2Proof/Machine/Aead.lean ====
section
/-! DEFINITION. What the AEAD units share (42_gcm.md R129 to R132, 45_ccm_gxm_mur.md): the checks of SEAL and
OPEN after their sequence and nonce checks, and the parts of an OPEN input. -/

namespace Sys2Proof.Machine

/-- The plaintext length of an OPEN input, s − t (R130); made only after the check s >= t. -/
def State.bodyLen (s : State) : Nat := s.len .src - s.tagLen

/-- The ciphertext of an OPEN input (R130). -/
def State.sealedBody (s : State) : Bytes := s.fetch .src s.bodyLen

/-- The received tag of an OPEN input, read at SRC_ADDR + n (R130, 47_arithmetic_and_access_laws.md R236). -/
def State.sealedTag (s : State) : Bytes := s.mem.readBytes (s.addr .src + s.bodyLen) s.tagLen

/-- Capacity, address range and overlap checks of a SEAL (R129): the dst window includes the tag. `extra` are
the other regions the command reads. -/
def sealChecks (s : State) (extra : List Region) : List Check :=
  [s.capCheck (s.len .src + s.tagLen),
   s.busCheck (extra ++ [s.whole .aad, s.whole .src, s.region .dst (s.len .src + s.tagLen)]),
   s.overlapCheck (s.len .src + s.tagLen) (s.len .src)]

/-- `if s < t: raise E_AUTH` of an OPEN: class R, nothing written (R130). -/
def shortInputCheck (s : State) : Check := failIf (s.len .src < s.tagLen) .auth

/-- Capacity, address range and overlap checks of an OPEN (R130): both windows are the plaintext length. -/
def openChecks (s : State) (extra : List Region) : List Check :=
  [s.capCheck s.bodyLen,
   s.busCheck (extra ++ [s.whole .aad, s.whole .src, s.region .dst s.bodyLen]),
   s.overlapCheck s.bodyLen s.bodyLen]

/-- `if reg[IV_LEN] ≠ NONCELEN_L: raise E_NONCE_LEN` (R129). -/
def nonceCheck (s : State) : Check := failIf (s.len .iv ≠ s.nonceLenL.toNat) .nonceLen

end Sys2Proof.Machine
end

