-- ==== Sys2Proof/Machine/Keystream.lean ====
section
/-! DEFINITION. The counter-mode pass shared by HCTR and CCM, where the counter block is a function of its
index (44_xts_hctr.md R193, 45_ccm_gxm_mur.md R206). -/

namespace Sys2Proof.Machine

/-- The pieces XORed with the enciphered counter blocks `ctr k, ctr (k+1), ...`; a short last piece uses the
leading bytes. -/
def indexedCtrPieces (f : Block → Block) (ctr : Nat → Block) (k : Nat) : List Bytes → Bytes
  | [] => []
  | p :: ps => xorBytes p (bytesOf (f (ctr k))) ++ indexedCtrPieces f ctr (k + 1) ps

/-- Block k of the data, from 0, uses counter block `ctr (k+1)`. -/
def indexedCtr (f : Block → Block) (ctr : Nat → Block) (data : Bytes) : Bytes :=
  indexedCtrPieces f ctr 1 (chunks16 data)

end Sys2Proof.Machine
end

