-- ==== Sys2Proof/Machine/Ccm.lean ====
section
/-! DEFINITION. The CCM unit (45_ccm_gxm_mur.md R202 to R210). -/

namespace Sys2Proof.Machine

/-- CCM.INIT (R203): the table is untouched. -/
def execCcmInit (s : State) : Result :=
  .next <| s.command
    [seqCheck s.ks0.valid,
     failIf (!([4, 6, 8, 10, 12, 14, 16].contains s.cfgTag)) .tagSize,
     failIf (s.len .iv < 7 || s.len .iv > 13) .nonceSize]
    (State.finish { s.bind .ccm with tagLenL := s.cfgTagLen, nonceLenL := s.ivLen } 0)

/-- `B0(nonce, aad, n)` (R204), m the tag length; L = 15 − |nonce|. -/
def ccmB0 (m : Nat) (nonce aad : Bytes) (n : Nat) : Bytes :=
  let l := 15 - nonce.length
  be 1 ((if aad.length > 0 then 64 else 0) + 8 * ((m - 2) / 2) + (l - 1)) ++ nonce ++ be l n

/-- `FormatAad(aad)` (R205). -/
def ccmFormatAad (aad : Bytes) : Bytes :=
  if aad.length = 0 then []
  else if aad.length < 65280 then zeroPad16 (be 2 aad.length ++ aad)
  else if aad.length < 2 ^ 32 then zeroPad16 ([0xFF, 0xFE] ++ be 4 aad.length ++ aad)
  else zeroPad16 ([0xFF, 0xFF] ++ be 8 aad.length ++ aad)

/-- `A(nonce, i)` (R206). -/
def ccmCounter (nonce : Bytes) (i : Nat) : Block :=
  let l := 15 - nonce.length
  blockOf (be 1 (l - 1) ++ nonce ++ be l i)

/-- `CcmCtr(nonce, data)` (R206): data uses i = 1, 2, ... -/
def ccmCtr (f : Block → Block) (nonce data : Bytes) : Bytes := indexedCtr f (ccmCounter nonce) data

/-- `CcmMac(nonce, aad, pt)` (R209), m the tag length. -/
def ccmMac (f : Block → Block) (m : Nat) (nonce aad pt : Bytes) : Block :=
  (blocksOf (ccmB0 m nonce aad pt.length ++ ccmFormatAad aad ++ zeroPad16 pt)).foldl (fun x b => f (x ^^^ b)) 0

/-- The tag `(T0 ⊕ E(KS0, A(nonce, 0)))[0 : M]` (R207). -/
def ccmTag (f : Block → Block) (m : Nat) (nonce aad pt : Bytes) : Bytes :=
  (bytesOf (ccmMac f m nonce aad pt ^^^ f (ccmCounter nonce 0))).take m

/-- `CcmMax = min(2^(8L) − 1, 2^32 − 1)` (R210), by the bound nonce length. -/
def ccmMax (s : State) : Nat := min (2 ^ (8 * (15 - s.nonceLenL.toNat)) - 1) (2 ^ 32 - 1)

/-- CCM.SEAL (R207). -/
def execCcmSeal (s : State) : Result :=
  .next <| s.command
    (seqCheck (s.bound .ccm && s.ks0.valid)
      :: nonceCheck s
      :: failIf (s.len .src > ccmMax s) .tooLong
      :: sealChecks s [s.whole .iv])
    (s.deliver (ccmCtr (encryptBlock s.ks0) (s.fetchAll .iv) (s.fetchAll .src)
      ++ ccmTag (encryptBlock s.ks0) s.tagLen (s.fetchAll .iv) (s.fetchAll .aad) (s.fetchAll .src)))

/-- The plaintext CCM.OPEN recovers before it verifies; internal (R208). -/
def ccmOpenBody (s : State) : Bytes := ccmCtr (encryptBlock s.ks0) (s.fetchAll .iv) s.sealedBody

/-- What CCM.OPEN does once its checks pass (R208): the tag is recomputed over the recovered plaintext. -/
def ccmOpenEffect (s : State) : State :=
  if ccmTag (encryptBlock s.ks0) s.tagLen (s.fetchAll .iv) (s.fetchAll .aad) (ccmOpenBody s) = s.sealedTag then
    s.deliver (ccmOpenBody s)
  else s.authFailure s.bodyLen

/-- CCM.OPEN (R208). -/
def execCcmOpen (s : State) : Result :=
  .next <| s.command
    (seqCheck (s.bound .ccm && s.ks0.valid)
      :: nonceCheck s
      :: shortInputCheck s
      :: failIf (s.bodyLen > ccmMax s) .tooLong
      :: openChecks s [s.whole .iv])
    (ccmOpenEffect s)

end Sys2Proof.Machine
end

