-- ==== Sys2Proof/Machine/Field.lean ====
section
/-! DEFINITION. The GF(2^128) engine (41_gf128.md R100 to R108): elements, doubling, the product table, the
table multiply, GHASH. -/

namespace Sys2Proof.Machine

/-- `FromBytes` of a 16-byte string (R101). -/
def elemOfBlock (b : Block) : Elem := ⟨b.extractLsb' 64 64, b.extractLsb' 0 64⟩

/-- `ToBytes` (R101). -/
def blockOfElem (e : Elem) : Block := e.low ++ e.high

/-- `Add` (R102). -/
def gfAdd (a b : Elem) : Elem := ⟨a.low ^^^ b.low, a.high ^^^ b.high⟩

/-- `Double`, multiplication by x (R102). -/
def gfDouble (a : Elem) : Elem :=
  { low := if a.high.getLsbD 0 then (a.low >>> 1) ^^^ 0xE100000000000000 else a.low >>> 1
    high := (a.high >>> 1) ||| (a.low <<< 63) }

/-- `bitrev4(i)`, i = 0..15 (R103). -/
def bitrev4 (i : Nat) : Nat := [0, 8, 4, 12, 2, 10, 6, 14, 1, 9, 5, 13, 3, 11, 7, 15].getD i 0

/-- Entry j of a table; every table has 16 entries. -/
def tableEntry (p : List Elem) (j : Nat) : Elem := p.getD j Elem.zero

/-- The two writes `TableBuild` makes for an even i (R104). -/
def tableStep (h : Elem) (p : List Elem) (i : Nat) : List Elem :=
  let p := p.set (bitrev4 i) (gfDouble (tableEntry p (bitrev4 (i / 2))))
  p.set (bitrev4 (i + 1)) (gfAdd (tableEntry p (bitrev4 i)) h)

/-- `TableBuild(h)` (R104). -/
def tableBuild (h : Block) : List Elem :=
  let e := elemOfBlock h
  [2, 4, 6, 8, 10, 12, 14].foldl (tableStep e) ((List.replicate 16 Elem.zero).set (bitrev4 1) e)

/-- The reduction table RED (R105). -/
def redTable : List (BitVec 16) :=
  [0x0000, 0x1C20, 0x3840, 0x2460, 0x7080, 0x6CA0, 0x48C0, 0x54E0,
   0xE100, 0xFD20, 0xD940, 0xC560, 0x9180, 0x8DA0, 0xA9C0, 0xB5E0]

/-- z·x^4, the four coefficients shifted out reduced by RED (R106). -/
def gfShift4 (z : Elem) : Elem :=
  let m := (z.high.extractLsb' 0 4).toNat
  { low := (z.low >>> 4) ^^^ ((redTable.getD m 0).setWidth 64 <<< 48)
    high := (z.high >>> 4) ||| (z.low <<< 60) }

/-- One nibble of `Mul` (R106): shift z by x^4 and add the table entry of the nibble. -/
def mulNibble (p : List Elem) (z : Elem) (n : Nat) : Elem := gfAdd (gfShift4 z) (tableEntry p n)

/-- k nibbles of a word, least significant first (R106). -/
def mulWord (p : List Elem) : Nat → DWord → Elem → Elem
  | 0, _, z => z
  | k + 1, w, z => mulWord p k (w >>> 4) (mulNibble p z (w.extractLsb' 0 4).toNat)

/-- `Mul(P, y)` (R106): the high word first, then the low word, from a fresh accumulator. -/
def gfMul (p : List Elem) (y : Elem) : Elem := mulWord p 16 y.low (mulWord p 16 y.high Elem.zero)

/-- XOR one block into the accumulator and multiply (R107; 44_xts_hctr.md R191's `absorb`). -/
def gfAbsorb (p : List Elem) (y : Elem) (b : Block) : Elem := gfMul p (gfAdd y (elemOfBlock b))

/-- `Update(P, y, data)` (R107): a trailing short block is zero-padded. -/
def gfUpdate (p : List Elem) (y : Elem) (data : Bytes) : Elem := (blocksOf data).foldl (gfAbsorb p) y

/-- The length in bits of n bytes, as the number of the 64 bits that R108 and 44_xts_hctr.md R192 write. R5 allows
`MEM_SIZE` = 2^61, hence 2^61 bytes (R44): their 2^64 bits do not fit, R7 gives `be(8, 2^64)` no value, and these
64 bits are a free value (DESIGN CHOICE, log 11). -/
def bitLength (n : Nat) : DWord := if n * 8 < 2 ^ 64 then BitVec.ofNat 64 (n * 8) else Config.overlongBitLength n

/-- The GHASH lengths block: `be(8, |aad|·8) ‖ be(8, |ct|·8)` (R108; 2^61 bytes: log 11). -/
def lengthsBlock (aad ct : Bytes) : Bytes := be 8 (bitLength aad.length).toNat ++ be 8 (bitLength ct.length).toNat

/-- `GHASH(P, aad, ct)` (R108). -/
def ghash (p : List Elem) (aad ct : Bytes) : Block :=
  blockOfElem (gfUpdate p (gfUpdate p (gfUpdate p Elem.zero aad) ct) (lengthsBlock aad ct))

end Sys2Proof.Machine
end

