-- ==== Sys2Proof/Machine/Gf.lean ====
section
/-! DEFINITION. The commands of the GF(2^128) engine (41_gf128.md R110 to R112). -/

namespace Sys2Proof.Machine

/-- The bound unit owns the product table: HCTR, GCM, GXM or MUR (R110). -/
def State.tableOwned (s : State) : Bool :=
  s.bound .hctr || s.bound .gcm || s.bound .gxm || s.bound .mur

/-- The table of a hash key, valid (R110; also what HCTR, GCM, GXM and MUR's INIT do with theirs). -/
def State.loadTable (s : State) (h : Block) : State := { s with tbl := tableBuild h, tblV := true }

/-- GF.INIT (R110). -/
def execGfInit (s : State) : Result :=
  .next <| s.command
    [failIf (s.len .aux ≠ 16) .keySize,
     s.busCheck [s.region .aux 16]]
    (((if s.tableOwned then s.unbind else s).loadTable (s.fetchBlock .aux)).finish 0)

/-- GF.MUL (R111). -/
def execGfMul (s : State) : Result :=
  .next <| s.command [seqCheck s.tblV] (State.finish { s with y := gfMul s.tbl s.y } 0)

/-- GF.UPD (R112). -/
def execGfUpd (s : State) : Result :=
  .next <| s.command
    [seqCheck s.tblV,
     s.busCheck [s.whole .src]]
    (State.finish { s with y := gfUpdate s.tbl s.y (s.fetchAll .src) } 0)

end Sys2Proof.Machine
end

