-- ==== Sys2Proof/Machine/Gcm.lean ====
section
/-! DEFINITION. The GCM mode controller (42_gcm.md R120 to R132). -/

namespace Sys2Proof.Machine

/-- GCM.INIT (R121): H = E(KS0, zeros(16)). -/
def execGcmInit (s : State) : Result :=
  .next <| s.command
    [seqCheck s.ks0.valid,
     failIf (s.cfgTag < 12 || s.cfgTag > 16) .tagSize,
     failIf (s.len .iv = 0) .nonceSize]
    (State.finish
      { (s.bind .gcm).loadTable (encryptBlock s.ks0 0) with
        tagLenL := s.cfgTagLen
        nonceLenL := s.ivLen } 0)

/-- `J0(nonce)` (R123). -/
def gcmJ0 (p : List Elem) (nonce : Bytes) : Block :=
  if nonce.length = 12 then blockOf (nonce ++ [0x00, 0x00, 0x00, 0x01]) else ghash p [] nonce

/-- `inc32(cb)` (R124): bytes 12 to 15 as a big-endian 32-bit number, +1 mod 2^32, no carry out. -/
def inc32 (cb : Block) : Block := cb.extractLsb' 32 96 ++ (cb.extractLsb' 0 32 + 1#32)

/-- The pieces XORed with the enciphered counter blocks cb, inc32(cb), ... -/
def gctrPieces (f : Block → Block) : Block → List Bytes → Bytes
  | _, [] => []
  | cb, p :: ps => xorBytes p (bytesOf (f cb)) ++ gctrPieces f (inc32 cb) ps

/-- `GCTR(cb, data)` (R125). -/
def gctr (f : Block → Block) (cb : Block) (data : Bytes) : Bytes := gctrPieces f cb (chunks16 data)

/-- `Tag(J0, aad, ct)` (R126), t its length. -/
def gcmTag (ks : KeySchedule) (p : List Elem) (t : Nat) (j0 : Block) (aad ct : Bytes) : Bytes :=
  (bytesOf (ghash p aad ct ^^^ encryptBlock ks j0)).take t

/-- "plaintext exceeding mode-specific length limit" (R129). -/
def gcmMax : Nat := (2 ^ 32 - 2) * 16

/-- `J0` of the command's nonce. -/
def gcmCommandJ0 (s : State) : Block := gcmJ0 s.tbl (s.fetchAll .iv)

/-- The ciphertext GCM.SEAL computes (R129): counter mode from J₁. -/
def gcmSealBody (s : State) : Bytes := gctr (encryptBlock s.ks0) (inc32 (gcmCommandJ0 s)) (s.fetchAll .src)

/-- GCM.SEAL (R129). -/
def execGcmSeal (s : State) : Result :=
  .next <| s.command
    (seqCheck (s.bound .gcm && s.ks0.valid && s.tblV)
      :: nonceCheck s
      :: failIf (s.len .src > gcmMax) .tooLong
      :: sealChecks s [s.whole .iv])
    (s.deliver (gcmSealBody s
      ++ gcmTag s.ks0 s.tbl s.tagLen (gcmCommandJ0 s) (s.fetchAll .aad) (gcmSealBody s)))

/-- What GCM.OPEN does once its checks pass (R130): verify, then decrypt. -/
def gcmOpenEffect (s : State) : State :=
  if gcmTag s.ks0 s.tbl s.tagLen (gcmCommandJ0 s) (s.fetchAll .aad) s.sealedBody = s.sealedTag then
    s.deliver (gctr (encryptBlock s.ks0) (inc32 (gcmCommandJ0 s)) s.sealedBody)
  else s.authFailure s.bodyLen

/-- GCM.OPEN (R130). -/
def execGcmOpen (s : State) : Result :=
  .next <| s.command
    (seqCheck (s.bound .gcm && s.ks0.valid && s.tblV)
      :: nonceCheck s
      :: shortInputCheck s
      :: failIf (s.bodyLen > gcmMax) .tooLong
      :: openChecks s [s.whole .iv])
    (gcmOpenEffect s)

end Sys2Proof.Machine
end

