-- ==== Sys2Proof/Machine/Hctr.lean ====
section
/-! DEFINITION. The HCTR unit (44_xts_hctr.md R189 to R195). -/

namespace Sys2Proof.Machine

/-- HCTR.INIT (R190). -/
def execHctrInit (s : State) : Result :=
  .next <| s.command
    [seqCheck s.ks0.valid,
     failIf (s.len .aux ≠ 16) .keySize,
     failIf (s.len .iv ≠ 16) .ivLen,
     s.busCheck [s.region .iv 16, s.region .aux 16]]
    (State.finish { (s.bind .hctr).loadTable (s.fetchBlock .aux) with iv := s.fetchBlock .iv } 0)

/-- `LenWord(n) = zeros(8) ‖ be(8, (n + 16)·8)` (R192; n + 16 = 2^61: `bitLength`, log 11). -/
def lenWord (n : Nat) : Bytes := zeros 8 ++ be 8 (bitLength (n + 16)).toNat

/-- What follows the full blocks of M in `Uhash` (R191): the trailing partial block, if any, completed with
the tweak's first bytes, then the tweak's rest zero-padded; or the tweak itself. -/
def uhashTail (tw : Bytes) (rest : Bytes) : Bytes :=
  if rest.length > 0 then
    (rest ++ tw.take (16 - rest.length)) ++ (tw.drop (16 - rest.length) ++ zeros (16 - rest.length))
  else tw

/-- `Uhash(M)` (R191). -/
def uhash (p : List Elem) (tw : Block) (m : Bytes) : Block :=
  let f := m.length / 16
  let y := gfUpdate p Elem.zero (m.take (16 * f))
  let y := gfUpdate p y (uhashTail (bytesOf tw) (m.drop (16 * f)))
  blockOfElem (gfAbsorb p y (blockOf (lenWord m.length)))

/-- Counter block i of `HCtr` (R193): i XORed, as 64 bits big-endian, into bytes 8 to 15 of S. -/
def hctrCounter (v : Block) (i : Nat) : Block := v ^^^ (BitVec.ofNat 64 i).setWidth 128

/-- `HCtr(S, data)` (R193). -/
def hctrStream (f : Block → Block) (v : Block) (data : Bytes) : Bytes := indexedCtr f (hctrCounter v) data

/-- HCTR encryption of at least 16 bytes (R194). -/
def hctrEncrypt (ks : KeySchedule) (p : List Elem) (tw : Block) (src : Bytes) : Bytes :=
  let p2 := src.drop 16
  let z1 := blockOf (src.take 16) ^^^ uhash p tw p2
  let z2 := encryptBlock ks z1
  let c2 := hctrStream (encryptBlock ks) (z1 ^^^ z2) p2
  bytesOf (z2 ^^^ uhash p tw c2) ++ c2

/-- HCTR decryption of at least 16 bytes (R195). -/
def hctrDecrypt (ks : KeySchedule) (p : List Elem) (tw : Block) (src : Bytes) : Bytes :=
  let c2 := src.drop 16
  let z2 := blockOf (src.take 16) ^^^ uhash p tw c2
  let z1 := decryptBlock ks z2
  let p2 := hctrStream (encryptBlock ks) (z1 ^^^ z2) c2
  bytesOf (z1 ^^^ uhash p tw p2) ++ p2

/-- The checks of HCTR.ENC and HCTR.DEC (R194). -/
def hctrChecks (s : State) : List Check :=
  seqCheck (s.bound .hctr && s.ks0.valid && s.tblV)
    :: failIf (s.len .src < 16) .srcShort
    :: windowChecks s (s.len .src)

/-- HCTR.ENC (R194). -/
def execHctrEnc (s : State) : Result :=
  .next <| s.command (hctrChecks s) (s.deliver (hctrEncrypt s.ks0 s.tbl s.iv (s.fetchAll .src)))

/-- HCTR.DEC (R195). -/
def execHctrDec (s : State) : Result :=
  .next <| s.command (hctrChecks s) (s.deliver (hctrDecrypt s.ks0 s.tbl s.iv (s.fetchAll .src)))

end Sys2Proof.Machine
end

