-- ==== Sys2Proof/Machine/Gxm.lean ====
section
/-! DEFINITION. The GXM unit (45_ccm_gxm_mur.md R211 to R215), over the stream parameter GXM_KS (R201). -/

namespace Sys2Proof.Machine

/-- The k keystream bytes `ks(p), ..., ks(p + k − 1)` (R201). -/
def keystream (ks : Nat → Byte) (p : Nat) : Nat → Bytes
  | 0 => []
  | k + 1 => ks p :: keystream ks (p + 1) k

/-- GXM.INIT (R212). -/
def execGxmInit (s : State) : Result :=
  .next <| s.command
    [failIf (s.len .aux ≠ 16) .keySize,
     failIf (s.cfgTag < 8 || s.cfgTag > 16) .tagSize,
     failIf (!s.params.hasGxmKs) .unsupported,
     s.busCheck [s.region .aux 16]]
    (State.finish { (s.bind .gxm).loadTable (s.fetchBlock .aux) with tagLenL := s.cfgTagLen, spos := 0 } 0)

/-- The bytes `Take(k)` returns (R213). -/
def takenBytes (s : State) (k : Nat) : Bytes := keystream Config.gxmKs s.spos.toNat k

/-- The state after `Take(k)` (R213): SPOS <- (SPOS + k) mod 2^64. -/
def State.afterTake (s : State) (k : Nat) : State := { s with spos := s.spos + BitVec.ofNat 64 k }

/-- The tag `GHASH(TBL, aad, ct)[0 : t] ⊕ mask` (R214). -/
def gxmTag (p : List Elem) (t : Nat) (aad ct mask : Bytes) : Bytes :=
  xorBytes ((bytesOf (ghash p aad ct)).take t) mask

/-- The ciphertext GXM.SEAL computes: the data keystream follows the mask (R214). -/
def gxmSealBody (s : State) : Bytes :=
  xorBytes (s.fetchAll .src) (takenBytes (s.afterTake s.tagLen) (s.len .src))

/-- What GXM.SEAL does once its checks pass (R214). -/
def gxmSealEffect (s : State) : State :=
  ((s.afterTake s.tagLen).afterTake (s.len .src)).deliver
    (gxmSealBody s ++ gxmTag s.tbl s.tagLen (s.fetchAll .aad) (gxmSealBody s) (takenBytes s s.tagLen))

/-- GXM.SEAL (R214). -/
def execGxmSeal (s : State) : Result :=
  .next <| s.command (seqCheck (s.bound .gxm && s.tblV) :: sealChecks s []) (gxmSealEffect s)

/-- What GXM.OPEN does once its checks pass (R215): on a tag mismatch SPOS has advanced by TAGLEN_L only. -/
def gxmOpenEffect (s : State) : State :=
  if gxmTag s.tbl s.tagLen (s.fetchAll .aad) s.sealedBody (takenBytes s s.tagLen) = s.sealedTag then
    ((s.afterTake s.tagLen).afterTake s.bodyLen).deliver
      (xorBytes s.sealedBody (takenBytes (s.afterTake s.tagLen) s.bodyLen))
  else (s.afterTake s.tagLen).authFailure s.bodyLen

/-- GXM.OPEN (R215). -/
def execGxmOpen (s : State) : Result :=
  .next <| s.command
    (seqCheck (s.bound .gxm && s.tblV) :: shortInputCheck s :: openChecks s [])
    (gxmOpenEffect s)

end Sys2Proof.Machine
end

