-- ==== Sys2Proof/Machine/Mur.lean ====
section
/-! DEFINITION. The MUR unit (45_ccm_gxm_mur.md R219 to R225), over the factory parameter STREAM_NEW (R201). -/

namespace Sys2Proof.Machine

/-- MUR.INIT (R220). -/
def execMurInit (s : State) : Result :=
  .next <| s.command
    [failIf (s.len .aux ≠ 16) .keySize,
     failIf (s.cfgTag < 8 || s.cfgTag > 16) .tagSize,
     failIf (!s.params.hasStreamNew) .unsupported,
     s.busCheck [s.region .aux 16]]
    (State.finish { (s.bind .mur).loadTable (s.fetchBlock .aux) with tagLenL := s.cfgTagLen } 0)

/-- The tag-stream IV (R222): its first 16 bytes are hv ⊕ iv, the rest as MUR_IV_TAIL says. -/
def murTagIv (tail : MurIvTail) (hv iv : Bytes) : Bytes :=
  xorBytes hv (iv.take 16) ++
    match tail with
    | .literal => zeros (iv.drop 16).length
    | .zeroExtended => iv.drop 16

/-- `First(New(key, iv), k)` (R221): the first k keystream bytes, or refuse. -/
def firstOf (new : Bytes → Bytes → Option (Nat → Byte)) (key iv : Bytes) (k : Nat) : Option Bytes :=
  match new key iv with
  | none => none
  | some ks => some (keystream ks 0 k)

/-- `MurTag(iv, k2, pt, aad)` (R222); none where the factory refuses. -/
def murTag (new : Bytes → Bytes → Option (Nat → Byte)) (tail : MurIvTail) (p : List Elem) (t : Nat)
    (iv k2 pt aad : Bytes) : Option Bytes :=
  firstOf new k2 (murTagIv tail (bytesOf (ghash p aad pt)) iv) t

/-- `MurDataIv(iv, tag)` (R223): iv ⊕ tag, bytes beyond the tag the iv's own. -/
def murDataIv (iv tag : Bytes) : Bytes := xorBytes iv tag ++ iv.drop tag.length

/-- Bytes XORed with a stream, either way; none where the factory refuses. -/
def murXor (new : Bytes → Bytes → Option (Nat → Byte)) (k1 iv tag data : Bytes) : Option Bytes :=
  (firstOf new k1 (murDataIv iv tag) data.length).map (xorBytes data)

/-- The tag of this command's operands over a plaintext. -/
def murCommandTag (s : State) (pt : Bytes) : Option Bytes :=
  murTag Config.streamNew s.params.murIvTail s.tbl s.tagLen (s.fetchAll .iv) (s.fetchAll .aux) pt (s.fetchAll .aad)

/-- The regions MUR.SEAL and MUR.OPEN read besides aad and src (R224). -/
def murRegions (s : State) : List Region := [s.whole .iv, s.whole .key, s.whole .aux]

/-- What MUR.SEAL does once its checks pass (R224): the tag stream first, then the data stream; either may
refuse, E_STREAM. -/
def murSealEffect (s : State) : State :=
  match murCommandTag s (s.fetchAll .src) with
  | none => s.raise .stream
  | some tag =>
    match murXor Config.streamNew (s.fetchAll .key) (s.fetchAll .iv) tag (s.fetchAll .src) with
    | none => s.raise .stream
    | some ct => s.deliver (ct ++ tag)

/-- MUR.SEAL (R224). -/
def execMurSeal (s : State) : Result :=
  .next <| s.command
    (seqCheck (s.bound .mur && s.tblV) :: failIf (s.len .iv > 32) .ivLen :: sealChecks s (murRegions s))
    (murSealEffect s)

/-- What MUR.OPEN does once its checks pass (R225): the received tag gives the data stream, then the tag is
recomputed over the plaintext. -/
def murOpenEffect (s : State) : State :=
  match murXor Config.streamNew (s.fetchAll .key) (s.fetchAll .iv) s.sealedTag s.sealedBody with
  | none => s.raise .stream
  | some pt =>
    match murCommandTag s pt with
    | none => s.raise .stream
    | some tag => if tag = s.sealedTag then s.deliver pt else s.authFailure s.bodyLen

/-- MUR.OPEN (R225). -/
def execMurOpen (s : State) : Result :=
  .next <| s.command
    (seqCheck (s.bound .mur && s.tblV) :: failIf (s.len .iv > 32) .ivLen :: shortInputCheck s
      :: openChecks s (murRegions s))
    (murOpenEffect s)

end Sys2Proof.Machine
end

