-- ==== Sys2Proof/Machine/Sm4.lean ====
section
/-! DEFINITION. The commands of the SM4 unit (40_sm4.md R90 to R94). -/

namespace Sys2Proof.Machine

/-- SM4.INIT (R90). -/
def execSm4Init (s : State) : Result :=
  .next <| s.command
    [failIf (s.len .key ≠ 16) .keySize,
     s.busCheck [s.region .key 16]]
    (State.finish { s.unbind with ks0 := keyExp (s.fetchBlock .key) } 0)

/-- The checks of the SM4 data commands on windows of n bytes, in R91's order. -/
def sm4Checks (s : State) (n : Nat) : List Check :=
  [seqCheck s.ks0.valid,
   failIf (s.len .src < n) .srcShort,
   s.capCheck n,
   s.busCheck [s.region .src n, s.region .dst n],
   s.overlapCheck n n]

/-- The result of a cipher applied to each of the first k blocks of src: lane j reads block j and writes
block j (R93; 47_arithmetic_and_access_laws.md R234). -/
def sm4Lanes (cipher : Block → Block) (s : State) (k : Nat) : Bytes :=
  bytesOfBlocks ((blocksOf (s.fetch .src (16 * k))).map cipher)

/-- SM4.ENC (R91). -/
def execSm4Enc (s : State) : Result :=
  .next <| s.command (sm4Checks s 16) (s.deliver (sm4Lanes (encryptBlock s.ks0) s 1))

/-- SM4.DEC (R92). -/
def execSm4Dec (s : State) : Result :=
  .next <| s.command (sm4Checks s 16) (s.deliver (sm4Lanes (decryptBlock s.ks0) s 1))

/-- SM4.ENCB (R93): CONC blocks. -/
def execSm4Encb (s : State) : Result :=
  .next <| s.command (sm4Checks s (16 * s.params.conc))
    (s.deliver (sm4Lanes (encryptBlock s.ks0) s s.params.conc))

/-- SM4.DECB (R94): CONC blocks. -/
def execSm4Decb (s : State) : Result :=
  .next <| s.command (sm4Checks s (16 * s.params.conc))
    (s.deliver (sm4Lanes (decryptBlock s.ks0) s s.params.conc))

end Sys2Proof.Machine
end

