-- ==== Sys2Proof/Machine/StreamModes.lean ====
section
/-! DEFINITION. The byte-granular mode units CFB, OFB, CTR (43_block_stream_modes.md R154 to R164). -/

namespace Sys2Proof.Machine

/-! ## CFB -/

/-- CFB.INIT (R154). -/
def execCfbInit (s : State) : Result := initIv .cfb s

/-- At KPOS = 16 a new keystream block: KSB <- E(KS0, IV), KPOS <- 0 (R155). -/
def cfbRefill (ks : KeySchedule) (c : StreamCtx) : StreamCtx :=
  if c.kpos = 16 then { c with ksb := encryptBlock ks c.iv, kpos := 0 } else c

/-- One byte of CFB (R155, R156): the ciphertext byte, which is the output when encrypting and the input when
decrypting, enters IV at KPOS. -/
def cfbStep (decrypting : Bool) (ks : KeySchedule) (c : StreamCtx) (b : Byte) : StreamCtx × Byte :=
  let c := cfbRefill ks c
  let o := b ^^^ blockByte c.ksb c.kpos
  ({ c with iv := setBlockByte c.iv c.kpos (if decrypting then b else o), kpos := c.kpos + 1 }, o)

/-- CFB.ENC (R155). -/
def execCfbEnc (s : State) : Result := streamCommand .cfb (cfbStep false s.ks0) s

/-- CFB.DEC (R156). -/
def execCfbDec (s : State) : Result := streamCommand .cfb (cfbStep true s.ks0) s

/-! ## OFB -/

/-- OFB.INIT (R159). -/
def execOfbInit (s : State) : Result := initIv .ofb s

/-- At KPOS = 16 the next mask block: IV <- E(KS0, IV), KPOS <- 0 (R160). -/
def ofbRefill (ks : KeySchedule) (c : StreamCtx) : StreamCtx :=
  if c.kpos = 16 then { c with iv := encryptBlock ks c.iv, kpos := 0 } else c

/-- One byte of OFB (R160); KSB is not used. -/
def ofbStep (ks : KeySchedule) (c : StreamCtx) (b : Byte) : StreamCtx × Byte :=
  let c := ofbRefill ks c
  ({ c with kpos := c.kpos + 1 }, b ^^^ blockByte c.iv c.kpos)

/-- OFB.XOR (R160). -/
def execOfbXor (s : State) : Result := streamCommand .ofb (ofbStep s.ks0) s

/-! ## CTR -/

/-- CTR.INIT (R162). -/
def execCtrInit (s : State) : Result := initIv .ctr s

/-- `inc128(cb)` (R164). -/
def inc128 (cb : Block) : Block := cb + 1

/-- At KPOS = 16 a new keystream block: KSB <- E(KS0, IV), IV <- inc128(IV), KPOS <- 0 (R163). -/
def ctrRefill (ks : KeySchedule) (c : StreamCtx) : StreamCtx :=
  if c.kpos = 16 then { iv := inc128 c.iv, ksb := encryptBlock ks c.iv, kpos := 0 } else c

/-- One byte of CTR (R163). -/
def ctrStep (ks : KeySchedule) (c : StreamCtx) (b : Byte) : StreamCtx × Byte :=
  let c := ctrRefill ks c
  ({ c with kpos := c.kpos + 1 }, b ^^^ blockByte c.ksb c.kpos)

/-- CTR.XOR (R163). -/
def execCtrXor (s : State) : Result := streamCommand .ctr (ctrStep s.ks0) s

end Sys2Proof.Machine
end

