-- ==== Sys2Proof/Machine/Sys.lean ====
section
/-! DEFINITION. The system unit (46_sys.md), and the illegal command words (30_encoding.md R64). -/

namespace Sys2Proof.Machine

/-- SYS.NOP (R230). -/
def execSysNop (s : State) : Result := .next (s.command [] (s.finish 0))

/-- What SYS.ZEROIZE clears (R231): both schedules, the table, Y, and the mode context. -/
def State.zeroize (s : State) : State :=
  { s.unbind with
    ks0 := KeySchedule.empty
    ks1 := KeySchedule.empty
    tbl := List.replicate 16 Elem.zero
    tblV := false
    y := Elem.zero }

/-- SYS.ZEROIZE (R231). -/
def execSysZeroize (s : State) : Result := .next (s.command [] (s.zeroize.finish 0))

/-- A value written to CMD that is no command (30_encoding.md R64): E_ILLEGAL, after the FAULT check of
60_exceptions.md R242. -/
def illegalCommand (s : State) : Result := .next (s.command [failIf true .illegal] s)

end Sys2Proof.Machine
end

