-- ==== Sys2Proof/Machine/Xts.lean ====
section
/-! DEFINITION. The XTS unit (44_xts_hctr.md R180 to R186). -/

namespace Sys2Proof.Machine

/-- XTS.INIT (R181): KS0 from the first half of the double key, KS1 from the second. -/
def execXtsInit (s : State) : Result :=
  .next <| s.command
    [failIf (s.len .key ≠ 32) .keySize,
     failIf (s.cfgDialect == 1 && !s.params.hasXtsGbMul2) .unsupported,
     s.busCheck [s.region .key 32]]
    (State.finish
      { s.bind .xts with
        ks0 := keyExp (blockOf ((s.fetch .key 32).take 16))
        ks1 := keyExp (blockOf ((s.fetch .key 32).drop 16))
        dialL := s.cfgDialect } 0)

/-- `t'[j]` for j = 0..15 in order, bytewise (R183): each byte shifted left by one, the bit the byte before
it shifted out coming in. -/
def shiftBytesLeft (carry : Byte) : Bytes → Bytes
  | [] => []
  | b :: bs => ((b <<< 1) ||| carry) :: shiftBytesLeft (b >>> 7) bs

/-- IEEE doubling `Mul2(t)` (R183): byte 0 is the least significant; a bit shifted out of byte 15 is fed back
as 0x87 into byte 0. -/
def xtsMul2Ieee (t : Block) : Block :=
  let shifted := blockOf (shiftBytesLeft 0 (bytesOf t))
  if (blockByte t 15).getLsbD 7 then shifted ^^^ (0x87#128 <<< 120) else shifted

/-- The doubling of the dialect DIAL_L (R182, R184). -/
def xtsMul2 (dialect : BitVec 1) : Block → Block :=
  if dialect = 1 then Config.xtsGbMul2 else xtsMul2Ieee

/-- One block under a tweak: `f(b ⊕ T) ⊕ T` (R185). -/
def xtsBlock (f : Block → Block) (t b : Block) : Block := f (b ^^^ t) ^^^ t

/-- One full block of a sector (R185): the block under T, then T <- Mul2(T). -/
def xtsStep (f mul2 : Block → Block) (t b : Block) : Block × Block := (mul2 t, xtsBlock f t b)

/-- A whole sector (R185, R186). `full` blocks run in order under T, Mul2(T), ...; if a partial block of b
bytes follows, the last full block and it are done by ciphertext stealing: the full one under `first T` to a
block X, the partial one filled up with X's last bytes and done under `second T`, and X's first b bytes last. -/
def xtsSector (f mul2 first second : Block → Block) (t : Block) (src : Bytes) : Bytes :=
  let m := src.length / 16
  let b := src.length % 16
  let full := if b = 0 then m else m - 1
  let r := chain (xtsStep f mul2) t (blocksOf (src.take (16 * full)))
  if b = 0 then bytesOfBlocks r.2
  else
    let t := r.1
    let x := bytesOf (xtsBlock f (first t) (blockOf ((src.drop (16 * full)).take 16)))
    let filled := src.drop (16 * m) ++ x.drop b
    bytesOfBlocks r.2 ++ bytesOf (xtsBlock f (second t) (blockOf filled)) ++ x.take b

/-- XTS encryption of a sector (R185): the last full block under T, the stolen one under Mul2(T). -/
def xtsEncSector (f mul2 : Block → Block) (t : Block) (src : Bytes) : Bytes := xtsSector f mul2 id mul2 t src

/-- XTS decryption of a sector (R186): the last full block under Mul2(T), the stolen one under T. -/
def xtsDecSector (f mul2 : Block → Block) (t : Block) (src : Bytes) : Bytes := xtsSector f mul2 mul2 id t src

/-- The checks of XTS.ENC and XTS.DEC (R185). -/
def xtsChecks (s : State) : List Check :=
  [seqCheck (s.bound .xts && s.ks0.valid && s.ks1.valid),
   failIf (s.len .iv ≠ 16) .ivLen,
   failIf (s.len .src < 16) .srcShort,
   failIf (s.len .src ≥ 2 ^ 24) .tooLong,
   s.capCheck (s.len .src),
   s.busCheck [s.region .iv 16, s.whole .src, s.region .dst (s.len .src)],
   s.overlapCheck (s.len .src) (s.len .src)]

/-- `T_0 = E(KS1, TW)` (R182): the tweak is enciphered in both directions. -/
def xtsTweak (s : State) : Block := encryptBlock s.ks1 (s.fetchBlock .iv)

/-- XTS.ENC (R185). -/
def execXtsEnc (s : State) : Result :=
  .next <| s.command (xtsChecks s)
    (s.deliver (xtsEncSector (encryptBlock s.ks0) (xtsMul2 s.dialL) (xtsTweak s) (s.fetchAll .src)))

/-- XTS.DEC (R186). -/
def execXtsDec (s : State) : Result :=
  .next <| s.command (xtsChecks s)
    (s.deliver (xtsDecSector (decryptBlock s.ks0) (xtsMul2 s.dialL) (xtsTweak s) (s.fetchAll .src)))

end Sys2Proof.Machine
end

