-- ==== Sys2Proof/Machine/Dispatch.lean ====
section
/-! DEFINITION. The demultiplexer (30_encoding.md R62): each command goes to exactly one meaning. -/

namespace Sys2Proof.Machine

def exec (i : Instr) (s : State) : Host.Outcome State Fault Refusal :=
  match i with
  | .sysNop => Sys2Proof.Machine.execSysNop s
  | .sysZeroize => Sys2Proof.Machine.execSysZeroize s
  | .sm4Init => Sys2Proof.Machine.execSm4Init s
  | .sm4Enc => Sys2Proof.Machine.execSm4Enc s
  | .sm4Dec => Sys2Proof.Machine.execSm4Dec s
  | .sm4Encb => Sys2Proof.Machine.execSm4Encb s
  | .sm4Decb => Sys2Proof.Machine.execSm4Decb s
  | .gfInit => Sys2Proof.Machine.execGfInit s
  | .gfMul => Sys2Proof.Machine.execGfMul s
  | .gfUpd => Sys2Proof.Machine.execGfUpd s
  | .ecbInit => Sys2Proof.Machine.execEcbInit s
  | .ecbEnc => Sys2Proof.Machine.execEcbEnc s
  | .ecbDec => Sys2Proof.Machine.execEcbDec s
  | .cbcInit => Sys2Proof.Machine.execCbcInit s
  | .cbcEnc => Sys2Proof.Machine.execCbcEnc s
  | .cbcDec => Sys2Proof.Machine.execCbcDec s
  | .cbcSetiv => Sys2Proof.Machine.execCbcSetiv s
  | .cfbInit => Sys2Proof.Machine.execCfbInit s
  | .cfbEnc => Sys2Proof.Machine.execCfbEnc s
  | .cfbDec => Sys2Proof.Machine.execCfbDec s
  | .ofbInit => Sys2Proof.Machine.execOfbInit s
  | .ofbXor => Sys2Proof.Machine.execOfbXor s
  | .ctrInit => Sys2Proof.Machine.execCtrInit s
  | .ctrXor => Sys2Proof.Machine.execCtrXor s
  | .xtsInit => Sys2Proof.Machine.execXtsInit s
  | .xtsEnc => Sys2Proof.Machine.execXtsEnc s
  | .xtsDec => Sys2Proof.Machine.execXtsDec s
  | .bcInit => Sys2Proof.Machine.execBcInit s
  | .bcEnc => Sys2Proof.Machine.execBcEnc s
  | .bcDec => Sys2Proof.Machine.execBcDec s
  | .bcSetiv => Sys2Proof.Machine.execBcSetiv s
  | .ofbnlfInit => Sys2Proof.Machine.execOfbnlfInit s
  | .ofbnlfEnc => Sys2Proof.Machine.execOfbnlfEnc s
  | .ofbnlfDec => Sys2Proof.Machine.execOfbnlfDec s
  | .ofbnlfSetiv => Sys2Proof.Machine.execOfbnlfSetiv s
  | .hctrInit => Sys2Proof.Machine.execHctrInit s
  | .hctrEnc => Sys2Proof.Machine.execHctrEnc s
  | .hctrDec => Sys2Proof.Machine.execHctrDec s
  | .gcmInit => Sys2Proof.Machine.execGcmInit s
  | .gcmSeal => Sys2Proof.Machine.execGcmSeal s
  | .gcmOpen => Sys2Proof.Machine.execGcmOpen s
  | .ccmInit => Sys2Proof.Machine.execCcmInit s
  | .ccmSeal => Sys2Proof.Machine.execCcmSeal s
  | .ccmOpen => Sys2Proof.Machine.execCcmOpen s
  | .gxmInit => Sys2Proof.Machine.execGxmInit s
  | .gxmSeal => Sys2Proof.Machine.execGxmSeal s
  | .gxmOpen => Sys2Proof.Machine.execGxmOpen s
  | .murInit => Sys2Proof.Machine.execMurInit s
  | .murSeal => Sys2Proof.Machine.execMurSeal s
  | .murOpen => Sys2Proof.Machine.execMurOpen s

end Sys2Proof.Machine
end

