-- ==== Sys2Proof/Machine/HostPort.lean ====
section
/-! DEFINITION. The host port (10_state.md R10, R16): what each host access and the reset event do. -/

namespace Sys2Proof.Machine

/-- A host write of a value to CMD (30_encoding.md R60, R66): decode it, and run the command it is, or
raise E_ILLEGAL. FAULT = 1 is checked first, inside both (60_exceptions.md R242). -/
def issueCommand (v : DWord) (s : State) : Result :=
  match decode v with
  | .ok i => exec i s
  | .error _ => illegalCommand s

/-- A host access to a byte of buffer memory: only addresses below MEM_SIZE exist (20_memory.md R40). -/
def withAddress (s : State) (a : Nat) (r : State) : Result :=
  if a < s.params.memSize then .next r else .fault (.noSuchAddress a)

/-- One host access or reset event, already taken off `pending`. -/
def serveHost (e : HostEvent) (s : State) : Result :=
  match e with
  | .writeReg no v => if no = 0 then issueCommand v s else .next (s.writeReg no v)
  | .readReg no => .next { s with readData := s.readReg no }
  | .storeByte a b => withAddress s a { s with mem := s.mem.write a b }
  | .loadByte a => withAddress s a { s with readData := (s.mem.read a).setWidth 64 }
  | .reset => .next s.resetEvent

/-- The next thing to happen: the first pending event; with none, the core is idle and "holds all state"
(60_exceptions.md R258). -/
def serveNext (s : State) : Result :=
  match s.pending with
  | [] => .next s
  | e :: rest => serveHost e { s with pending := rest }

/-- The state in which the host's next access is a write of a command word to CMD. -/
def presentWord (s : State) (nbits w : Nat) : State :=
  { s with pending := .writeReg 0 (BitVec.ofNat 64 (w % 2 ^ nbits)) :: s.pending }

end Sys2Proof.Machine
end

