-- ==== Sys2Proof/Machine/Step.lean ====
section
/-! DEFINITION. One step of the machine: one host access, one whole command, or one reset event
(10_state.md R10, R11). -/

namespace Sys2Proof.Machine

/-- One step (log 2). -/
def step (s : State) : Host.Outcome State Fault Refusal := serveNext s

/-- The state whose very next step issues the command word w: the host's write of it to CMD is the next
pending event. A command is never fetched from memory (20_memory.md R54). -/
def State.withFetchWord (s : State) (nbits w : Nat) : State := presentWord s nbits w

end Sys2Proof.Machine
end

