-- ==== Sys2Proof/Safety.lean ====
section
/-! DEFINITION. The words claims are made in: the invariant of the machine, what a command needs in order to
run and what it may change, the errors by 60_exceptions.md's tables, and closed forms of what the rules
compute. Written from the rules apart from the meanings, so that a claim compares two readings. -/

namespace Sys2Proof.Machine

/-! ## Memory as a claim sees it -/

/-- The 16 bytes of a memory at an address, as a block (20_memory.md R45). -/
def Memory.block (m : Memory) (a : Nat) : Block := blockOf (m.readBytes a 16)

/-- Every byte outside [a, a + n) reads in m' as it does in m (20_memory.md R42). -/
abbrev SameOutside (m m' : Memory) (a n : Nat) : Prop := ∀ x, ¬(a ≤ x ∧ x < a + n) → m'.read x = m.read x

/-- m' is m with the byte string at a, byte by byte (20_memory.md R42). -/
abbrev Written (m m' : Memory) (a : Nat) (bs : Bytes) : Prop :=
  SameOutside m m' a bs.length ∧ ∀ k < bs.length, m'.read (a + k) = bs.getD k 0

/-- The region (a, n) is empty or inside the buffer memory (20_memory.md R44). -/
abbrev InMemory (s : State) (a n : Nat) : Prop := n = 0 ∨ a + n ≤ s.params.memSize

/-- The regions (a, n) and (b, m) do not overlap inexactly (20_memory.md R48). -/
abbrev SameOrApart (a n b m : Nat) : Prop := n = 0 ∨ m = 0 ∨ a = b ∨ a + n ≤ b ∨ b + m ≤ a

/-- A dst window of r bytes beside a src window of n bytes passes the capacity, range and overlap checks
(20_memory.md R44, R48, R49). -/
abbrev Windows (s : State) (r n : Nat) : Prop :=
  r ≤ s.dstCap.toNat ∧ InMemory s s.srcAddr.toNat n ∧ InMemory s s.dstAddr.toNat r
    ∧ SameOrApart s.dstAddr.toNat r s.srcAddr.toNat n

/-! ## What a mode command needs -/

/-- The core runs commands, and the unit is bound with its schedule valid. -/
abbrev Ready (u : ModeUnit) (s : State) : Prop :=
  s.fault = false ∧ s.active = some u ∧ s.ks0.valid = true

/-- `BlockChecks(u)` pass (43_block_stream_modes.md R142). -/
abbrev BlockReady (u : ModeUnit) (s : State) : Prop :=
  Ready u s ∧ s.srcLen.toNat % 16 = 0 ∧ Windows s s.srcLen.toNat s.srcLen.toNat

/-- `StreamChecks(u)` pass (43_block_stream_modes.md R143). -/
abbrev StreamReady (u : ModeUnit) (s : State) : Prop :=
  Ready u s ∧ Windows s s.srcLen.toNat s.srcLen.toNat

/-- The checks of XTS.ENC and XTS.DEC pass (44_xts_hctr.md R185). -/
abbrev XtsReady (s : State) : Prop :=
  Ready .xts s ∧ s.ks1.valid = true ∧ s.ivLen.toNat = 16 ∧ 16 ≤ s.srcLen.toNat ∧ s.srcLen.toNat < 2 ^ 24
    ∧ InMemory s s.ivAddr.toNat 16 ∧ Windows s s.srcLen.toNat s.srcLen.toNat

/-- The checks of HCTR.ENC and HCTR.DEC pass (44_xts_hctr.md R194). -/
abbrev HctrReady (s : State) : Prop :=
  Ready .hctr s ∧ s.tblV = true ∧ 16 ≤ s.srcLen.toNat ∧ Windows s s.srcLen.toNat s.srcLen.toNat

/-- The regions every AEAD data command reads besides src: aad and iv (42_gcm.md R129). -/
abbrev NonceAadOk (s : State) : Prop :=
  InMemory s s.ivAddr.toNat s.ivLen.toNat ∧ InMemory s s.aadAddr.toNat s.aadLen.toNat

/-- The plaintext length of an OPEN: s − t (42_gcm.md R130). -/
abbrev openLen (s : State) : Nat := s.srcLen.toNat - s.tagLenL.toNat

/-- The windows of a SEAL pass: dst n + t, src n (42_gcm.md R129). -/
abbrev SealWindows (s : State) : Prop := Windows s (s.srcLen.toNat + s.tagLenL.toNat) s.srcLen.toNat

/-- The input of an OPEN is no shorter than the tag and its windows pass: dst and src s − t each, all of src
inside the buffer memory (42_gcm.md R130). -/
abbrev OpenWindows (s : State) : Prop :=
  s.tagLenL.toNat ≤ s.srcLen.toNat ∧ InMemory s s.srcAddr.toNat s.srcLen.toNat ∧ Windows s (openLen s) (openLen s)

/-- The checks of GCM.SEAL and GCM.OPEN before their windows pass, for a plaintext of n bytes
(42_gcm.md R129, R130). -/
abbrev GcmReady (s : State) (n : Nat) : Prop :=
  Ready .gcm s ∧ s.tblV = true ∧ s.ivLen = s.nonceLenL ∧ n ≤ (2 ^ 32 - 2) * 16 ∧ NonceAadOk s

/-- As `GcmReady`, for CCM (45_ccm_gxm_mur.md R207, R208, R210). -/
abbrev CcmReady (s : State) (n : Nat) : Prop :=
  Ready .ccm s ∧ s.ivLen = s.nonceLenL ∧ n ≤ 2 ^ (8 * (15 - s.nonceLenL.toNat)) - 1 ∧ n ≤ 2 ^ 32 - 1
    ∧ NonceAadOk s

/-- The checks of GXM.SEAL and GXM.OPEN before their windows pass (45_ccm_gxm_mur.md R214, R215). -/
abbrev GxmReady (s : State) : Prop :=
  s.fault = false ∧ s.active = some .gxm ∧ s.tblV = true ∧ InMemory s s.aadAddr.toNat s.aadLen.toNat

/-- The checks of MUR.SEAL and MUR.OPEN before their windows pass (45_ccm_gxm_mur.md R224, R225). -/
abbrev MurReady (s : State) : Prop :=
  s.fault = false ∧ s.active = some .mur ∧ s.tblV = true ∧ s.ivLen.toNat ≤ 32 ∧ NonceAadOk s
    ∧ InMemory s s.keyAddr.toNat s.keyLen.toNat ∧ InMemory s s.auxAddr.toNat s.auxLen.toNat

/-! ## The bytes of an operand -/

/-- The nonce, iv or tweak. -/
abbrev ivBytes (s : State) : Bytes := s.mem.readBytes s.ivAddr.toNat s.ivLen.toNat

/-- The associated data. -/
abbrev aadBytes (s : State) : Bytes := s.mem.readBytes s.aadAddr.toNat s.aadLen.toNat

/-- The first key, `k₁` of MUR. -/
abbrev keyBytes (s : State) : Bytes := s.mem.readBytes s.keyAddr.toNat s.keyLen.toNat

/-- The second key, `k₂` of MUR. -/
abbrev auxBytes (s : State) : Bytes := s.mem.readBytes s.auxAddr.toNat s.auxLen.toNat

/-- The first n bytes of src. -/
abbrev srcBytes (s : State) (n : Nat) : Bytes := s.mem.readBytes s.srcAddr.toNat n

/-- The first n bytes of dst. -/
abbrev dstBytes (s : State) (n : Nat) : Bytes := s.mem.readBytes s.dstAddr.toNat n

/-- Byte k of src. -/
abbrev srcByte (s : State) (k : Nat) : Byte := s.mem.read (s.srcAddr.toNat + k)

/-- Block i of src. -/
abbrev srcBlock (s : State) (i : Nat) : Block := s.mem.block (s.srcAddr.toNat + 16 * i)

/-- Block i that a later memory holds at dst. -/
abbrev dstBlock (s t : State) (i : Nat) : Block := t.mem.block (s.dstAddr.toNat + 16 * i)

/-- The received tag of an OPEN (42_gcm.md R130). -/
abbrev receivedTag (s : State) : Bytes :=
  s.mem.readBytes (s.srcAddr.toNat + openLen s) s.tagLenL.toNat

/-! ## The invariant -/

/-- A schedule context holds nothing, or the schedule of some key (10_state.md R20). -/
def ScheduleOk (ks : KeySchedule) : Prop := ks = KeySchedule.empty ∨ ∃ key, ks = keyExp key

/-- TBL holds nothing and is not valid, or the table of some hash key (10_state.md R21). -/
def TableOk (s : State) : Prop :=
  (s.tblV = false ∧ s.tbl = List.replicate 16 Elem.zero) ∨ (s.tblV = true ∧ ∃ h, s.tbl = tableBuild h)

/-- FAULT is set exactly while ERR shows a class P error; E_BLOCKSIZE is never shown; an error leaves OUT_LEN
at 0 (60_exceptions.md R241 to R244). -/
def ErrorOk (s : State) : Prop :=
  (s.fault = true ↔ ∃ e, s.err = some e ∧ isClassP e = true) ∧ s.err ≠ some .blockSize
    ∧ (s.err ≠ none → s.outLen = 0)

/-- IV is zero (10_state.md R24: "zero, unused"). -/
abbrev NoIv (s : State) : Prop := s.iv = 0

/-- No keystream is buffered, and none ever was (10_state.md R25). -/
abbrev NoKeystream (s : State) : Prop := s.ksb = 0 ∧ s.kpos = 16

/-- No AEAD sizes are latched (10_state.md R26). -/
abbrev NoSizes (s : State) : Prop := s.tagLenL = 0 ∧ s.nonceLenL = 0

/-- No dialect is latched and no keystream taken (10_state.md R26). -/
abbrev NoDialect (s : State) : Prop := s.dialL = 0 ∧ s.spos = 0

/-- What the bound unit's INIT established and its commands keep; what the unit does not use is as `Unbind()`
left it (10_state.md R23 to R27). -/
def ContextOk (s : State) : Prop :=
  match s.active with
  | none => NoIv s ∧ NoKeystream s ∧ NoSizes s ∧ NoDialect s
  | some .ecb => s.ks0.valid = true ∧ NoIv s ∧ NoKeystream s ∧ NoSizes s ∧ NoDialect s
  | some .cbc | some .bc | some .ofbnlf => s.ks0.valid = true ∧ NoKeystream s ∧ NoSizes s ∧ NoDialect s
  | some .cfb | some .ctr => s.ks0.valid = true ∧ s.kpos ≤ 16 ∧ NoSizes s ∧ NoDialect s
  | some .ofb => s.ks0.valid = true ∧ s.ksb = 0 ∧ s.kpos ≤ 16 ∧ NoSizes s ∧ NoDialect s
  | some .xts =>
    s.ks0.valid = true ∧ s.ks1.valid = true ∧ (s.dialL = 1 → s.params.hasXtsGbMul2 = true)
      ∧ NoIv s ∧ NoKeystream s ∧ NoSizes s ∧ s.spos = 0
  | some .hctr => s.ks0.valid = true ∧ s.tblV = true ∧ NoKeystream s ∧ NoSizes s ∧ NoDialect s
  | some .gcm =>
    s.ks0.valid = true ∧ s.tblV = true ∧ s.tbl = tableBuild (encryptBlock s.ks0 0)
      ∧ 12 ≤ s.tagLenL.toNat ∧ s.tagLenL.toNat ≤ 16 ∧ 0 < s.nonceLenL.toNat
      ∧ NoIv s ∧ NoKeystream s ∧ NoDialect s
  | some .ccm =>
    s.ks0.valid = true ∧ s.tagLenL.toNat ∈ [4, 6, 8, 10, 12, 14, 16]
      ∧ 7 ≤ s.nonceLenL.toNat ∧ s.nonceLenL.toNat ≤ 13 ∧ NoIv s ∧ NoKeystream s ∧ NoDialect s
  | some .gxm =>
    s.tblV = true ∧ 8 ≤ s.tagLenL.toNat ∧ s.tagLenL.toNat ≤ 16 ∧ s.params.hasGxmKs = true
      ∧ s.nonceLenL = 0 ∧ s.dialL = 0 ∧ NoIv s ∧ NoKeystream s
  | some .mur =>
    s.tblV = true ∧ 8 ≤ s.tagLenL.toNat ∧ s.tagLenL.toNat ≤ 16 ∧ s.params.hasStreamNew = true
      ∧ s.nonceLenL = 0 ∧ NoIv s ∧ NoKeystream s ∧ NoDialect s

/-- The invariant of the machine: every step keeps it, and the reset state has it. -/
structure Inv (s : State) : Prop where
  /-- the parameters are ones 00_scope.md R5 allows -/
  params : s.params.wellFormed = true
  /-- the memory keeps its canonical form -/
  memForm : s.mem.wf
  /-- the memory lists only addresses that exist (20_memory.md R40) -/
  memRange : ∀ c ∈ s.mem, c.1 < s.params.memSize
  ks0 : ScheduleOk s.ks0
  ks1 : ScheduleOk s.ks1
  table : TableOk s
  error : ErrorOk s
  /-- a result is no longer than the memory that holds it (20_memory.md R49) -/
  outLen : s.outLen.toNat ≤ s.params.memSize
  context : ContextOk s

/-! ## Errors by the tables of 60_exceptions.md -/

/-- The errors a command can raise (R246). -/
def raisable : Instr → List Err
  | .sysNop | .sysZeroize => []
  | .sm4Init | .gfInit => [.keySize, .bus]
  | .sm4Enc | .sm4Dec | .sm4Encb | .sm4Decb => [.seq, .srcShort, .dstShort, .bus, .overlap]
  | .gfMul | .ecbInit => [.seq]
  | .gfUpd => [.seq, .bus]
  | .cbcInit | .cfbInit | .ofbInit | .ctrInit | .bcInit | .ofbnlfInit
  | .cbcSetiv | .bcSetiv | .ofbnlfSetiv => [.seq, .ivLen, .bus]
  | .ecbEnc | .ecbDec | .cbcEnc | .cbcDec | .bcEnc | .bcDec | .ofbnlfEnc | .ofbnlfDec =>
    [.seq, .notBlocks, .dstShort, .bus, .overlap]
  | .cfbEnc | .cfbDec | .ofbXor | .ctrXor => [.seq, .dstShort, .bus, .overlap]
  | .xtsInit => [.keySize, .unsupported, .bus]
  | .xtsEnc | .xtsDec => [.seq, .ivLen, .srcShort, .tooLong, .dstShort, .bus, .overlap]
  | .hctrInit => [.seq, .keySize, .ivLen, .bus]
  | .hctrEnc | .hctrDec => [.seq, .srcShort, .dstShort, .bus, .overlap]
  | .gcmInit | .ccmInit => [.seq, .tagSize, .nonceSize]
  | .gcmSeal | .ccmSeal => [.seq, .nonceLen, .tooLong, .dstShort, .bus, .overlap]
  | .gcmOpen | .ccmOpen => [.seq, .nonceLen, .auth, .tooLong, .dstShort, .bus, .overlap]
  | .gxmInit | .murInit => [.keySize, .tagSize, .unsupported, .bus]
  | .gxmSeal => [.seq, .dstShort, .bus, .overlap]
  | .gxmOpen => [.seq, .auth, .dstShort, .bus, .overlap]
  | .murSeal => [.seq, .ivLen, .dstShort, .bus, .overlap, .stream]
  | .murOpen => [.seq, .ivLen, .auth, .dstShort, .bus, .overlap, .stream]

/-- The errors of steps 3 to 8 of R247, in its order; `auth` there is an OPEN input shorter than the tag. -/
def errorOrder : List Err :=
  [.seq, .keySize, .tagSize, .nonceSize, .unsupported, .ivLen, .nonceLen, .auth, .srcShort, .notBlocks,
   .tooLong, .dstShort, .bus, .overlap]

/-- The unit that must be bound for an operation command of units 3 to 15 (30_encoding.md R66). -/
def unitOf : Instr → Option ModeUnit
  | .ecbEnc | .ecbDec => some .ecb
  | .cbcEnc | .cbcDec | .cbcSetiv => some .cbc
  | .cfbEnc | .cfbDec => some .cfb
  | .ofbXor => some .ofb
  | .ctrXor => some .ctr
  | .xtsEnc | .xtsDec => some .xts
  | .bcEnc | .bcDec | .bcSetiv => some .bc
  | .ofbnlfEnc | .ofbnlfDec | .ofbnlfSetiv => some .ofbnlf
  | .hctrEnc | .hctrDec => some .hctr
  | .gcmSeal | .gcmOpen => some .gcm
  | .ccmSeal | .ccmOpen => some .ccm
  | .gxmSeal | .gxmOpen => some .gxm
  | .murSeal | .murOpen => some .mur
  | _ => none

/-- The command needs KS0 valid (the command rules of 40_sm4.md to 45_ccm_gxm_mur.md). -/
def needsKs0 (i : Instr) : Bool :=
  [.sm4Enc, .sm4Dec, .sm4Encb, .sm4Decb, .ecbInit, .cbcInit, .cfbInit, .ofbInit, .ctrInit, .bcInit, .ofbnlfInit,
   .hctrInit, .gcmInit, .ccmInit, .ecbEnc, .ecbDec, .cbcEnc, .cbcDec, .cfbEnc, .cfbDec, .ofbXor, .ctrXor, .xtsEnc,
   .xtsDec, .bcEnc, .bcDec, .ofbnlfEnc, .ofbnlfDec, .hctrEnc, .hctrDec, .gcmSeal, .gcmOpen, .ccmSeal,
   .ccmOpen].contains i

/-- The command needs KS1 valid. -/
def needsKs1 (i : Instr) : Bool := [.xtsEnc, .xtsDec].contains i

/-- The command needs TBL valid. -/
def needsTbl (i : Instr) : Bool :=
  [.gfMul, .gfUpd, .hctrEnc, .hctrDec, .gcmSeal, .gcmOpen, .gxmSeal, .gxmOpen, .murSeal, .murOpen].contains i

/-- The commands that open a sealed input. -/
def isOpen (i : Instr) : Bool := [.gcmOpen, .ccmOpen, .gxmOpen, .murOpen].contains i

/-- The commands that seal. -/
def isSeal (i : Instr) : Bool := [.gcmSeal, .ccmSeal, .gxmSeal, .murSeal].contains i

/-- The commands with a dst: those that write the buffer memory. -/
def writesDst (i : Instr) : Bool :=
  [.sm4Enc, .sm4Dec, .sm4Encb, .sm4Decb, .ecbEnc, .ecbDec, .cbcEnc, .cbcDec, .cfbEnc, .cfbDec, .ofbXor, .ctrXor,
   .xtsEnc, .xtsDec, .bcEnc, .bcDec, .ofbnlfEnc, .ofbnlfDec, .hctrEnc, .hctrDec, .gcmSeal, .gcmOpen, .ccmSeal,
   .ccmOpen, .gxmSeal, .gxmOpen, .murSeal, .murOpen].contains i

/-- The length of the src window (20_memory.md R48). -/
def srcWindow (i : Instr) (s : State) : Nat :=
  match i with
  | .sm4Enc | .sm4Dec => 16
  | .sm4Encb | .sm4Decb => 16 * s.params.conc
  | _ => if isOpen i then s.srcLen.toNat - s.tagLenL.toNat else s.srcLen.toNat

/-- The length of the result, which is the dst window (20_memory.md R48, R49). -/
def dstWindow (i : Instr) (s : State) : Nat :=
  if isSeal i then s.srcLen.toNat + s.tagLenL.toNat else srcWindow i s

/-- Every region the command reads or writes, as (address, length), by its rule's operands. -/
def regionsOf (i : Instr) (s : State) : List (Nat × Nat) :=
  let iv := [(s.ivAddr.toNat, s.ivLen.toNat)]
  let key := [(s.keyAddr.toNat, s.keyLen.toNat)]
  let aux := [(s.auxAddr.toNat, s.auxLen.toNat)]
  let aad := [(s.aadAddr.toNat, s.aadLen.toNat)]
  let src := [(s.srcAddr.toNat, s.srcLen.toNat)]
  let windows := [(s.srcAddr.toNat, srcWindow i s), (s.dstAddr.toNat, dstWindow i s)]
  match i with
  | .sm4Init | .xtsInit => key
  | .gfInit | .gxmInit | .murInit => aux
  | .gfUpd => src
  | .cbcInit | .cfbInit | .ofbInit | .ctrInit | .bcInit | .ofbnlfInit
  | .cbcSetiv | .bcSetiv | .ofbnlfSetiv => iv
  | .hctrInit => iv ++ aux
  | .xtsEnc | .xtsDec => iv ++ windows
  | .gcmSeal | .gcmOpen | .ccmSeal | .ccmOpen => iv ++ aad ++ src ++ windows
  | .gxmSeal | .gxmOpen => aad ++ src ++ windows
  | .murSeal | .murOpen => iv ++ key ++ aux ++ aad ++ src ++ windows
  | _ => if writesDst i then windows else []

/-- The condition under which a command fails with an error of steps 3 to 8 of R247 (R241, "raised when").
It reads host registers, valid bits, ACTIVE and the latched lengths only. -/
def raisedWhen (i : Instr) (s : State) : Err → Bool
  | .seq =>
    (needsKs0 i && !s.ks0.valid) || (needsKs1 i && !s.ks1.valid) || (needsTbl i && !s.tblV)
      || (match unitOf i with | none => false | some u => s.active != some u)
  | .keySize =>
    match i with
    | .sm4Init => s.keyLen.toNat != 16
    | .xtsInit => s.keyLen.toNat != 32
    | .gfInit | .hctrInit | .gxmInit | .murInit => s.auxLen.toNat != 16
    | _ => false
  | .tagSize =>
    match i with
    | .gcmInit => !([12, 13, 14, 15, 16].contains s.cfgTagLen.toNat)
    | .ccmInit => !([4, 6, 8, 10, 12, 14, 16].contains s.cfgTagLen.toNat)
    | .gxmInit | .murInit => !([8, 9, 10, 11, 12, 13, 14, 15, 16].contains s.cfgTagLen.toNat)
    | _ => false
  | .nonceSize =>
    match i with
    | .gcmInit => s.ivLen.toNat == 0
    | .ccmInit => !([7, 8, 9, 10, 11, 12, 13].contains s.ivLen.toNat)
    | _ => false
  | .unsupported =>
    match i with
    | .xtsInit => s.cfgDialect == 1 && !s.params.hasXtsGbMul2
    | .gxmInit => !s.params.hasGxmKs
    | .murInit => !s.params.hasStreamNew
    | _ => false
  | .ivLen =>
    match i with
    | .cbcInit | .cfbInit | .ofbInit | .ctrInit | .bcInit | .ofbnlfInit | .hctrInit
    | .cbcSetiv | .bcSetiv | .ofbnlfSetiv | .xtsEnc | .xtsDec => s.ivLen.toNat != 16
    | .murSeal | .murOpen => decide (32 < s.ivLen.toNat)
    | _ => false
  | .nonceLen =>
    match i with
    | .gcmSeal | .gcmOpen | .ccmSeal | .ccmOpen => s.ivLen != s.nonceLenL
    | _ => false
  | .auth => isOpen i && decide (s.srcLen.toNat < s.tagLenL.toNat)
  | .srcShort =>
    match i with
    | .sm4Enc | .sm4Dec | .xtsEnc | .xtsDec | .hctrEnc | .hctrDec => decide (s.srcLen.toNat < 16)
    | .sm4Encb | .sm4Decb => decide (s.srcLen.toNat < 16 * s.params.conc)
    | _ => false
  | .notBlocks =>
    match i with
    | .ecbEnc | .ecbDec | .cbcEnc | .cbcDec | .bcEnc | .bcDec | .ofbnlfEnc | .ofbnlfDec =>
      s.srcLen.toNat % 16 != 0
    | _ => false
  | .tooLong =>
    match i with
    | .xtsEnc | .xtsDec => decide (2 ^ 24 ≤ s.srcLen.toNat)
    | .gcmSeal | .gcmOpen => decide ((2 ^ 32 - 2) * 16 < srcWindow i s)
    | .ccmSeal | .ccmOpen =>
      decide (2 ^ (8 * (15 - s.nonceLenL.toNat)) ≤ srcWindow i s) || decide (2 ^ 32 ≤ srcWindow i s)
    | _ => false
  | .dstShort => writesDst i && decide (s.dstCap.toNat < dstWindow i s)
  | .bus => (regionsOf i s).any fun r => r.2 != 0 && decide (s.params.memSize < r.1 + r.2)
  | .overlap =>
    writesDst i && !(decide (SameOrApart s.dstAddr.toNat (dstWindow i s) s.srcAddr.toNat (srcWindow i s)))
  | _ => false

/-- The first error of R247's order whose condition holds. -/
def firstRaised (i : Instr) (s : State) : Option Err := errorOrder.find? (raisedWhen i s)

/-! ## What a command may change -/

/-- The commands that write KS0 (10_state.md R20). -/
def writesKs0 (i : Instr) : Bool := [.sm4Init, .xtsInit, .sysZeroize].contains i

/-- The commands that write KS1 (10_state.md R20). -/
def writesKs1 (i : Instr) : Bool := [.xtsInit, .sysZeroize].contains i

/-- The commands that write TBL (10_state.md R21). -/
def writesTbl (i : Instr) : Bool := [.gfInit, .hctrInit, .gcmInit, .gxmInit, .murInit, .sysZeroize].contains i

/-- The commands that write Y (10_state.md R22). -/
def writesY (i : Instr) : Bool := [.gfMul, .gfUpd, .sysZeroize].contains i

/-- The commands that bind or unbind a unit (10_state.md R27). -/
def rebinds (i : Instr) : Bool :=
  [.ecbInit, .cbcInit, .cfbInit, .ofbInit, .ctrInit, .xtsInit, .bcInit, .ofbnlfInit, .hctrInit, .gcmInit, .ccmInit,
   .gxmInit, .murInit, .sm4Init, .gfInit, .sysZeroize].contains i

/-- The commands that write IV beside those that rebind (10_state.md R24). -/
def runsIv (i : Instr) : Bool :=
  [.cbcEnc, .cbcDec, .cbcSetiv, .cfbEnc, .cfbDec, .ofbXor, .ctrXor, .bcEnc, .bcDec, .bcSetiv, .ofbnlfEnc,
   .ofbnlfDec, .ofbnlfSetiv].contains i

/-- The commands that write KPOS beside those that rebind (10_state.md R25). -/
def runsKpos (i : Instr) : Bool := [.cfbEnc, .cfbDec, .ofbXor, .ctrXor].contains i

/-- The commands that write KSB beside those that rebind; OFB does not (10_state.md R25). -/
def runsKsb (i : Instr) : Bool := [.cfbEnc, .cfbDec, .ctrXor].contains i

/-- The commands that write SPOS beside those that rebind (45_ccm_gxm_mur.md R213). -/
def runsSpos (i : Instr) : Bool := [.gxmSeal, .gxmOpen].contains i

/-! ## Closed forms of the stream modes (43_block_stream_modes.md R155, R156, R160, R163)

Position p counts keystream bytes from the start of the block that is buffered when the command starts: the
command's first byte is at p = KPOS, and p from 16 on lies in block p / 16 of those the command makes. -/

/-- How many new keystream blocks n bytes take from position p0. -/
def refills (p0 n : Nat) : Nat := (p0 + n - 1) / 16

/-- The CTR keystream byte at position p: the buffered block, then `E(IV)`, `E(IV + 1)`, ... (R163). -/
def ctrKeyByte (ks : KeySchedule) (c : StreamCtx) (p : Nat) : Byte :=
  if p < 16 then blockByte c.ksb p
  else blockByte (encryptBlock ks (c.iv + BitVec.ofNat 128 (p / 16 - 1))) (p % 16)

/-- The OFB mask byte at position p: IV, then `E(IV)`, `E(E(IV))`, ... (R160). -/
def ofbKeyByte (ks : KeySchedule) (c : StreamCtx) (p : Nat) : Byte :=
  blockByte ((encryptBlock ks)^[p / 16] c.iv) (p % 16)

/-- The CFB feedback byte at position p: IV's own before the command's first byte, then the ciphertext
(R155). `ct` gives the command's ciphertext bytes. -/
def cfbFeedback (c : StreamCtx) (ct : Nat → Byte) (p : Nat) : Byte :=
  if p < c.kpos then blockByte c.iv p else ct (p - c.kpos)

/-- Block q of the CFB feedback. -/
def cfbFeedbackBlock (c : StreamCtx) (ct : Nat → Byte) (q : Nat) : Block :=
  blockOf ((List.range 16).map fun j => cfbFeedback c ct (16 * q + j))

/-- The CFB keystream byte at position p: the buffered block, then the enciphered feedback blocks (R155). -/
def cfbKeyByte (ks : KeySchedule) (c : StreamCtx) (ct : Nat → Byte) (p : Nat) : Byte :=
  if p < 16 then blockByte c.ksb p
  else blockByte (encryptBlock ks (cfbFeedbackBlock c ct (p / 16 - 1))) (p % 16)

/-! ## The S-box apart from its table (40_sm4.md R81) -/

/-- `A(x)`: bit i is the parity of `x & rotl8(0xA7, i)`, XORed with 0xD3 (R81). -/
def sboxAffine (x : Byte) : Byte :=
  (List.range 8).foldl
    (fun y i => if (List.range 8).foldl (fun p j => p ^^ (x &&& (0xA7#8).rotateLeft i).getLsbD j) false
      then y ||| (1#8 <<< i) else y) 0 ^^^ 0xD3

/-- Multiplication in GF(2^8) modulo x^8 + x^7 + x^6 + x^5 + x^4 + x^2 + 1, by the first n bits of b from the
least significant (R81). -/
def gf8Mul : Nat → Byte → Byte → Byte
  | 0, _, _ => 0
  | n + 1, a, b =>
    (if b.getLsbD 0 then a else 0) ^^^ gf8Mul n ((a <<< 1) ^^^ if a.getLsbD 7 then 0xF5 else 0) (b >>> 1)

/-- Inversion in GF(2^8), 0 to 0: the power 254, the product of the squarings 2, 4, ..., 128 (R81). -/
def gf8Inv (x : Byte) : Byte :=
  ((List.range 7).foldl (fun (q : Byte × Byte) _ =>
    (gf8Mul 8 q.1 q.1, gf8Mul 8 q.2 (gf8Mul 8 q.1 q.1))) (x, 1)).2

/-! ## The field GF(2^128), apart from the table multiply (41_gf128.md R100, R102) -/

/-- The coefficient of x^k (10_state.md R22). -/
def coeff (e : Elem) (k : Nat) : Bool := if k ≤ 63 then e.low.getLsbD (63 - k) else e.high.getLsbD (127 - k)

/-- The product by shifting and adding: the sum of x^k · b over the coefficients of a that are 1. -/
def fieldMul (a b : Elem) : Elem :=
  ((List.range 128).filter (coeff a)).foldl (fun z k => gfAdd z (gfDouble^[k] b)) Elem.zero

end Sys2Proof.Machine
end

