-- ==== Sys2Proof/Certificates/Slice0/Obligations.lean ====
section
/-! DEFINITION. The statements for the provers. Each docstring names the rules of spec/ it formalises, and
says so where a clause is the model's own choice. "Completes" means: under conditions on the state and its
operands alone, `exec` answers a next state, and the statement says everything about it. -/

open Sys2Proof Sys2Proof.Machine

/-! ## Encoding and the step -/

/-- 30_encoding.md R60, R62, R63, R64. Every command's word decodes to it, and a value that decodes to a
command is that command's word and no other: no bit of the 64 is dropped. -/
def Obligations.DecodeAndEncodeAgree : Prop :=
  (∀ i, decode (encode i) = .ok i) ∧ ∀ v i, decode v = .ok i → v = encode i

/-- 30_encoding.md R63: one word of every unit, as the table prints it. -/
def Obligations.TableWordsDecode : Prop :=
  decode 0x0F = .ok .sysZeroize ∧ decode 0x14 = .ok .sm4Encb ∧ decode 0x27 = .ok .gfUpd
    ∧ decode 0x32 = .ok .ecbDec ∧ decode 0x43 = .ok .cbcSetiv ∧ decode 0x51 = .ok .cfbEnc
    ∧ decode 0x61 = .ok .ofbXor ∧ decode 0x70 = .ok .ctrInit ∧ decode 0x82 = .ok .xtsDec
    ∧ decode 0x93 = .ok .bcSetiv ∧ decode 0xA1 = .ok .ofbnlfEnc ∧ decode 0xB0 = .ok .hctrInit
    ∧ decode 0xC2 = .ok .gcmOpen ∧ decode 0xD1 = .ok .ccmSeal ∧ decode 0xE2 = .ok .gxmOpen
    ∧ decode 0xF0 = .ok .murInit

/-- 10_state.md R10, R11; 30_encoding.md R60, R66. When the host's next access writes a command word to CMD,
the step is the whole command, on the state with that access taken; and the state `withFetchWord` makes runs
the table word's command on the state as it was. That accesses come from `pending` is the model's choice, log 2. -/
def Obligations.StepRunsTheDecodedCommand : Prop :=
  (∀ (s : State) v rest i, s.pending = .writeReg 0 v :: rest → decode v = .ok i →
    step s = exec i { s with pending := rest })
  ∧ ∀ (s : State) nbits w i, decodeTableWord nbits w = some i → step (s.withFetchWord nbits w) = exec i s

/-- 30_encoding.md R64. A value written to CMD is a legal command exactly if it is one of the 50 words (which
makes v[63:8] zero); every other value raises E_ILLEGAL, of class P, and changes nothing else. -/
def Obligations.OtherWordsRaiseIllegal : Prop :=
  let words : List Nat :=
    [0x00, 0x0F, 0x10, 0x11, 0x12, 0x14, 0x15, 0x20, 0x26, 0x27, 0x30, 0x31, 0x32, 0x40, 0x41, 0x42, 0x43,
     0x50, 0x51, 0x52, 0x60, 0x61, 0x70, 0x71, 0x80, 0x81, 0x82, 0x90, 0x91, 0x92, 0x93, 0xA0, 0xA1, 0xA2, 0xA3,
     0xB0, 0xB1, 0xB2, 0xC0, 0xC1, 0xC2, 0xD0, 0xD1, 0xD2, 0xE0, 0xE1, 0xE2, 0xF0, 0xF1, 0xF2]
  words.length = 50
    ∧ (∀ v : DWord, (∃ i, decode v = .ok i) ↔ v.toNat ∈ words)
    ∧ ∀ (s : State) (v : DWord) rest, v.toNat ∉ words → s.pending = .writeReg 0 v :: rest → s.fault = false →
        step s = .next { s with pending := rest, err := some .illegal, fault := true, outLen := 0 }

/-! ## The host's accesses and reset -/

/-- 10_state.md R16, R18, R19. A host read of a register returns its value, 0 for CMD and for a number above
20, in every state, and changes nothing. STATUS has a statement of its own. `readData` is where the model puts
what the host reads (log 5). -/
def Obligations.HostReadsRegisters : Prop :=
  ∀ (s : State) no rest, s.pending = .readReg no :: rest →
    ∃ v : DWord, step s = .next { s with pending := rest, readData := v }
      ∧ (no = 0 → v = 0) ∧ (no = 2 → v = s.srcAddr) ∧ (no = 3 → v = s.srcLen) ∧ (no = 4 → v = s.dstAddr)
      ∧ (no = 5 → v = s.dstCap) ∧ (no = 6 → v = s.aadAddr) ∧ (no = 7 → v = s.aadLen) ∧ (no = 8 → v = s.ivAddr)
      ∧ (no = 9 → v = s.ivLen) ∧ (no = 10 → v = s.keyAddr) ∧ (no = 11 → v = s.keyLen)
      ∧ (no = 12 → v = s.auxAddr) ∧ (no = 13 → v = s.auxLen)
      ∧ (no = 14 → v.extractLsb' 0 8 = s.cfgTagLen ∧ v.extractLsb' 8 1 = s.cfgDialect ∧ v.extractLsb' 9 55 = 0)
      ∧ (no = 15 → v = s.outLen) ∧ (no = 16 → v = s.y.low) ∧ (no = 17 → v = s.y.high)
      ∧ (no = 18 → s.params.wellFormed = true →
          (v.extractLsb' 0 8).toNat = s.params.conc ∧ v.extractLsb' 8 8 = 16 ∧ v.extractLsb' 16 16 = 1
            ∧ v.extractLsb' 32 32 = 0)
      ∧ (no = 19 → v.toNat = s.tagLenL.toNat) ∧ (no = 20 → v = s.nonceLenL) ∧ (20 < no → v = 0)

/-- 10_state.md R17, R23; 30_encoding.md R62; 60_exceptions.md R241. What a host read of STATUS returns, field
by field: the error's code, FAULT, KS0V, KS1V, TBLV, the bound unit's number, and 0 in the reserved bits. -/
def Obligations.StatusShowsItsFields : Prop :=
  ∀ (s : State) rest, s.pending = .readReg 1 :: rest →
    ∃ v : DWord, step s = .next { s with pending := rest, readData := v }
      ∧ (s.err = none → v.extractLsb' 0 8 = 0)
      ∧ (∀ p ∈ [(Err.blockSize, 0x01#8), (.ivLen, 0x02#8), (.dstShort, 0x03#8), (.overlap, 0x04#8),
            (.notBlocks, 0x05#8), (.tooLong, 0x06#8), (.nonceLen, 0x07#8), (.srcShort, 0x08#8), (.illegal, 0x09#8),
            (.seq, 0x0A#8), (.bus, 0x0B#8), (.auth, 0x10#8), (.tagSize, 0x11#8), (.nonceSize, 0x12#8),
            (.keySize, 0x13#8), (.stream, 0x14#8), (.unsupported, 0x15#8)],
          s.err = some p.1 → v.extractLsb' 0 8 = p.2)
      ∧ v.getLsbD 8 = s.fault ∧ v.getLsbD 9 = s.ks0.valid ∧ v.getLsbD 10 = s.ks1.valid ∧ v.getLsbD 11 = s.tblV
      ∧ (s.active = none → v.extractLsb' 12 4 = 0)
      ∧ (∀ p ∈ [(ModeUnit.ecb, 3#4), (.cbc, 4#4), (.cfb, 5#4), (.ofb, 6#4), (.ctr, 7#4), (.xts, 8#4), (.bc, 9#4),
            (.ofbnlf, 10#4), (.hctr, 11#4), (.gcm, 12#4), (.ccm, 13#4), (.gxm, 14#4), (.mur, 15#4)],
          s.active = some p.1 → v.extractLsb' 12 4 = p.2)
      ∧ v.extractLsb' 16 48 = 0

/-- 10_state.md R16, R18. A host write of a register other than CMD stores the value, in every state; a write
to a read-only register, to reserved bits of CFG or to a number above 20 is ignored. -/
def Obligations.HostWritesRegisters : Prop :=
  ∀ (s : State) no (v : DWord) rest, no ≠ 0 → s.pending = .writeReg no v :: rest →
    ∃ t, step s = .next t
      ∧ (no = 2 → t = { s with pending := rest, srcAddr := v }) ∧ (no = 3 → t = { s with pending := rest, srcLen := v })
      ∧ (no = 4 → t = { s with pending := rest, dstAddr := v }) ∧ (no = 5 → t = { s with pending := rest, dstCap := v })
      ∧ (no = 6 → t = { s with pending := rest, aadAddr := v }) ∧ (no = 7 → t = { s with pending := rest, aadLen := v })
      ∧ (no = 8 → t = { s with pending := rest, ivAddr := v }) ∧ (no = 9 → t = { s with pending := rest, ivLen := v })
      ∧ (no = 10 → t = { s with pending := rest, keyAddr := v }) ∧ (no = 11 → t = { s with pending := rest, keyLen := v })
      ∧ (no = 12 → t = { s with pending := rest, auxAddr := v }) ∧ (no = 13 → t = { s with pending := rest, auxLen := v })
      ∧ (no = 14 →
          t = { s with pending := rest, cfgTagLen := v.extractLsb' 0 8, cfgDialect := v.extractLsb' 8 1 })
      ∧ (no = 16 → t = { s with pending := rest, y := ⟨v, s.y.high⟩ })
      ∧ (no = 17 → t = { s with pending := rest, y := ⟨s.y.low, v⟩ })
      ∧ (no ∈ [1, 15, 18, 19, 20] ∨ 20 < no → t = { s with pending := rest })

/-- 10_state.md R10; 20_memory.md R40. The host reads and writes any byte of buffer memory; at an address that
does not exist the step faults, which is the model's choice (log 6). -/
def Obligations.HostAccessesMemory : Prop :=
  (∀ (s : State) a b rest, s.mem.wf → s.pending = .storeByte a b :: rest → a < s.params.memSize →
    ∃ m, step s = .next { s with pending := rest, mem := m }
      ∧ ∀ x, m.read x = if x = a then b else s.mem.read x)
  ∧ (∀ (s : State) a rest, s.pending = .loadByte a :: rest → a < s.params.memSize →
    step s = .next { s with pending := rest, readData := (s.mem.read a).setWidth 64 })
  ∧ ∀ (s : State) a b rest, s.pending = .storeByte a b :: rest ∨ s.pending = .loadByte a :: rest →
    s.params.memSize ≤ a → step s = .fault (.noSuchAddress a)

/-- 10_state.md R30; 70_reset_and_hazards.md R270, R271. The reset event, in every state: every register and
context at its reset value, the buffer memory and the parameters as they were. That what the host has still to
do, and what it last read, outlast reset is the model's choice (log 12). -/
def Obligations.ResetEventResets : Prop :=
  ∀ (s : State) rest, s.pending = .reset :: rest →
    step s = .next
      { params := s.params, srcAddr := 0, srcLen := 0, dstAddr := 0, dstCap := 0, aadAddr := 0, aadLen := 0,
        ivAddr := 0, ivLen := 0, keyAddr := 0, keyLen := 0, auxAddr := 0, auxLen := 0, cfgTagLen := 0,
        cfgDialect := 0, outLen := 0, y := ⟨0, 0⟩, err := none, fault := false,
        ks0 := ⟨false, List.replicate 32 0, List.replicate 32 0⟩,
        ks1 := ⟨false, List.replicate 32 0, List.replicate 32 0⟩,
        tblV := false, tbl := List.replicate 16 ⟨0, 0⟩, active := none, iv := 0, ksb := 0, kpos := 16, tagLenL := 0,
        nonceLenL := 0, dialL := 0, spos := 0, mem := s.mem, pending := rest, readData := s.readData }

/-! ## The invariant -/

/-- 10_state.md R30: the reset state has the invariant. (Its memory and parameters are the model's choices,
log 1 and log 3.) -/
def Obligations.ResetStateHasTheInvariant : Prop := Inv State.reset

/-- 10_state.md R17, R20 to R27; 20_memory.md R40, R49; 60_exceptions.md R241 to R244. From every state with
the invariant, a step ends in a state with it: schedules are schedules of a key, the table is a table, FAULT
agrees with ERR, the bound unit's context is one its INIT and commands make, and the memory keeps its form. -/
def Obligations.EveryStepKeepsTheInvariant : Prop := ∀ s t : State, Inv s → step s = .next t → Inv t

/-- 10_state.md R16, R20 to R22, R24 to R28; 70_reset_and_hazards.md R271; 40_sm4.md R96. What each command
may change at most: no command writes a parameter, an operand register or CFG, and each context is written by
the commands the rules list for it and by no other. -/
def Obligations.CommandsChangeOnlyWhatTheyMay : Prop :=
  ∀ i s t, exec i s = .next t →
    t.params = s.params ∧ t.srcAddr = s.srcAddr ∧ t.srcLen = s.srcLen ∧ t.dstAddr = s.dstAddr
      ∧ t.dstCap = s.dstCap ∧ t.aadAddr = s.aadAddr ∧ t.aadLen = s.aadLen ∧ t.ivAddr = s.ivAddr ∧ t.ivLen = s.ivLen
      ∧ t.keyAddr = s.keyAddr ∧ t.keyLen = s.keyLen ∧ t.auxAddr = s.auxAddr ∧ t.auxLen = s.auxLen
      ∧ t.cfgTagLen = s.cfgTagLen ∧ t.cfgDialect = s.cfgDialect ∧ t.pending = s.pending ∧ t.readData = s.readData
      ∧ (writesY i = false → t.y = s.y) ∧ (writesKs0 i = false → t.ks0 = s.ks0)
      ∧ (writesKs1 i = false → t.ks1 = s.ks1) ∧ (writesTbl i = false → t.tbl = s.tbl ∧ t.tblV = s.tblV)
      ∧ (rebinds i = false →
          t.active = s.active ∧ t.tagLenL = s.tagLenL ∧ t.nonceLenL = s.nonceLenL ∧ t.dialL = s.dialL
            ∧ (runsIv i = false → t.iv = s.iv) ∧ (runsKpos i = false → t.kpos = s.kpos)
            ∧ (runsKsb i = false → t.ksb = s.ksb) ∧ (runsSpos i = false → t.spos = s.spos))
      ∧ (writesDst i = false → t.mem = s.mem)

/-! ## Errors -/

/-- 60_exceptions.md R242, R247; 30_encoding.md R66. While FAULT = 1 every command is ignored; host register reads
and writes still work. (That a word which is no command is ignored too, ERR keeping its value, is the model's reading
of R66 and R247, which check FAULT before the encoding: log 8, DEDUCED.) -/
def Obligations.FaultedCoreIgnoresCommands : Prop :=
  ∀ s : State, s.fault = true →
    (∀ i, exec i s = .next s)
    ∧ (∀ v rest, s.pending = .writeReg 0 v :: rest → step s = .next { s with pending := rest })
    ∧ (∀ no rest, s.pending = .readReg no :: rest →
        step s = .next { s with pending := rest, readData := s.readReg no })
    ∧ ∀ no v rest, no ≠ 0 → s.pending = .writeReg no v :: rest →
        step s = .next { s.writeReg no v with pending := rest }

/-- 60_exceptions.md R250; 10_state.md R17, R28: only the reset event clears FAULT. -/
def Obligations.OnlyResetClearsFault : Prop :=
  ∀ s t : State, step s = .next t → s.fault = true → t.fault = false → s.pending.head? = some .reset

/-- 60_exceptions.md R243, R244. A command always ends in a next state, and where that shows an error it has
exactly the error's effects: class P sets ERR and FAULT and clears OUT_LEN; class R sets ERR and clears OUT_LEN,
and a tag mismatch also zero-fills dst up to the plaintext length and, in GXM.OPEN, leaves SPOS advanced by
TAGLEN_L. -/
def Obligations.ErrorsHaveExactlyTheirEffects : Prop :=
  ∀ (i : Instr) (s : State), s.mem.wf → s.fault = false →
    ∃ t, exec i s = .next t ∧ ∀ e, t.err = some e →
      (isClassP e = true → t = { s with err := some e, fault := true, outLen := 0 })
      ∧ (isClassP e = false → e ≠ .auth → t = { s with err := some e, outLen := 0 })
      ∧ (e = .auth →
          isOpen i = true
          ∧ (s.srcLen.toNat < s.tagLenL.toNat → t = { s with err := some .auth, outLen := 0 })
          ∧ (s.tagLenL.toNat ≤ s.srcLen.toNat →
              t = { s with err := some .auth, outLen := 0, mem := t.mem, spos := t.spos }
              ∧ Written s.mem t.mem s.dstAddr.toNat (zeros (openLen s))
              ∧ t.spos = if i = .gxmOpen then s.spos + s.tagLenL.setWidth 64 else s.spos))

/-- 60_exceptions.md R241 (the "raised when" column), R246, R247. A command reports the first error, in R247's
order, whose condition holds; where none of steps 3 to 8 fails it succeeds, or ends in a tag mismatch (OPEN) or
a refusing factory (MUR). -/
def Obligations.FirstFailingCheckIsReported : Prop :=
  ∀ (i : Instr) (s : State), s.fault = false →
    (∀ e, firstRaised i s = some e →
      exec i s = .next { s with err := some e, fault := isClassP e, outLen := 0 })
    ∧ (firstRaised i s = none →
      ∃ t, exec i s = .next t ∧ t.fault = false
        ∧ (t.err = none ∨ (t.err = some .auth ∧ isOpen i = true)
            ∨ (t.err = some .stream ∧ i ∈ [.murSeal, .murOpen])))

/-- 60_exceptions.md R246: an error a command ends with is one its row of the table lists. -/
def Obligations.CommandsRaiseOnlyTheirErrors : Prop :=
  ∀ (i : Instr) (s t : State) (e : Err), s.fault = false → exec i s = .next t → t.err = some e → e ∈ raisable i

/-- 70_reset_and_hazards.md R272: right after a reset event every command that needs a context or a bound unit
ends in E_SEQ. -/
def Obligations.AfterResetDataCommandsEndInSeq : Prop :=
  ∀ (s : State) (i : Instr),
    (needsKs0 i = true ∨ needsTbl i = true ∨ unitOf i ≠ none) →
      exec i s.resetEvent = .next { s.resetEvent with err := some .seq, fault := true }

/-! ## Memory -/

/-- 20_memory.md R42, R43, R49. A command changes no byte outside [DST_ADDR, DST_ADDR + DST_CAP); one that
succeeds changes none outside the OUT_LEN bytes at DST_ADDR. -/
def Obligations.WritesStayInsideDst : Prop :=
  ∀ (i : Instr) (s t : State), s.mem.wf → exec i s = .next t →
    SameOutside s.mem t.mem s.dstAddr.toNat s.dstCap.toNat
    ∧ (s.fault = false → t.err = none → SameOutside s.mem t.mem s.dstAddr.toNat t.outLen.toNat)

/-- 20_memory.md R45(a), (c); 41_gf128.md R101. The words of an SM4 block and the halves of a field element are
the big-endian readings of their bytes in memory, and a block written goes back to the same bytes. -/
def Obligations.BlocksAreBigEndian : Prop :=
  ∀ (m : Memory) (a : Nat),
    quadOf (m.block a) =
      ⟨m.read a ++ m.read (a + 1) ++ m.read (a + 2) ++ m.read (a + 3),
       m.read (a + 4) ++ m.read (a + 5) ++ m.read (a + 6) ++ m.read (a + 7),
       m.read (a + 8) ++ m.read (a + 9) ++ m.read (a + 10) ++ m.read (a + 11),
       m.read (a + 12) ++ m.read (a + 13) ++ m.read (a + 14) ++ m.read (a + 15)⟩
    ∧ elemOfBlock (m.block a) =
      ⟨m.read a ++ m.read (a + 1) ++ m.read (a + 2) ++ m.read (a + 3)
         ++ m.read (a + 4) ++ m.read (a + 5) ++ m.read (a + 6) ++ m.read (a + 7),
       m.read (a + 8) ++ m.read (a + 9) ++ m.read (a + 10) ++ m.read (a + 11)
         ++ m.read (a + 12) ++ m.read (a + 13) ++ m.read (a + 14) ++ m.read (a + 15)⟩
    ∧ bytesOf (m.block a) = m.readBytes a 16

/-! ## The system unit -/

/-- 46_sys.md R230, R231. SYS.NOP and SYS.ZEROIZE complete in every state without FAULT, and are ignored with
it: NOP changes ERR and OUT_LEN only, ZEROIZE also clears every context and neither memory nor registers 2 to
14. -/
def Obligations.SystemCommandsComplete : Prop :=
  ∀ s : State,
    (s.fault = true → exec .sysNop s = .next s ∧ exec .sysZeroize s = .next s)
    ∧ (s.fault = false →
        exec .sysNop s = .next { s with err := none, outLen := 0 }
        ∧ exec .sysZeroize s = .next
          { s with
            ks0 := ⟨false, List.replicate 32 0, List.replicate 32 0⟩
            ks1 := ⟨false, List.replicate 32 0, List.replicate 32 0⟩
            tblV := false, tbl := List.replicate 16 ⟨0, 0⟩, y := ⟨0, 0⟩
            active := none, iv := 0, ksb := 0, kpos := 16, tagLenL := 0, nonceLenL := 0, dialL := 0, spos := 0
            err := none, outLen := 0 })

/-! ## SM4 -/

/-- 40_sm4.md R81, R82, R83: the S-box is a permutation and has the algebraic form R81 gives, the round
constants have R83's byte formula, FK its values. (R81 to R83 mark these values as the spec's own, from general
knowledge: log 7.) -/
def Obligations.Sm4ConstantsAreTheSpecs : Prop :=
  (∀ x : Byte, sbox x = sboxAffine (gf8Inv (sboxAffine x)))
    ∧ (∀ x y : Byte, sbox x = sbox y → x = y)
    ∧ ckTable.length = 32
    ∧ (∀ i < 32, ∀ j < 4, ((ckTable.getD i 0).extractLsb' (8 * (3 - j)) 8).toNat = (4 * i + j) * 7 % 256)
    ∧ fk = ⟨0xA3B1BAC6, 0x56AA3350, 0x677D9197, 0xB27022DC⟩

/-- 40_sm4.md R82, R87; 20_memory.md R45. The schedule of a key, by the recurrence over the words K[0..35]. (FK's
values, R82, and the order of the key's words, R45(b), are marked by the spec as from general knowledge, not from its
source: log 7, PRESUMED.) -/
def Obligations.KeyExpansionIsTheRecurrence : Prop :=
  ∀ key : Block, ∃ K : Nat → Word,
    K 0 = key.extractLsb' 96 32 ^^^ 0xA3B1BAC6 ∧ K 1 = key.extractLsb' 64 32 ^^^ 0x56AA3350
    ∧ K 2 = key.extractLsb' 32 32 ^^^ 0x677D9197 ∧ K 3 = key.extractLsb' 0 32 ^^^ 0xB27022DC
    ∧ (∀ i < 32, K (i + 4) = K i ^^^ mixT' (K (i + 1) ^^^ K (i + 2) ^^^ K (i + 3) ^^^ ckTable.getD i 0))
    ∧ (keyExp key).valid = true
    ∧ (keyExp key).enc.length = 32 ∧ (keyExp key).dec.length = 32
    ∧ ∀ i < 32, (keyExp key).enc[i]? = some (K (i + 4)) ∧ (keyExp key).dec[i]? = some (K (31 - i + 4))

/-- 40_sm4.md R88. The block function under 32 round words, by the recurrence over the words X[0..35]. -/
def Obligations.BlockFunctionIsTheRecurrence : Prop :=
  ∀ (ks : KeySchedule) (b : Block), ks.enc.length = 32 → ∃ X : Nat → Word,
    X 0 = b.extractLsb' 96 32 ∧ X 1 = b.extractLsb' 64 32 ∧ X 2 = b.extractLsb' 32 32 ∧ X 3 = b.extractLsb' 0 32
    ∧ (∀ i < 32, X (i + 4) = X i ^^^ mixT (X (i + 1) ^^^ X (i + 2) ^^^ X (i + 3) ^^^ ks.enc.getD i 0))
    ∧ encryptBlock ks b = X 35 ++ X 34 ++ X 33 ++ X 32

/-- 40_sm4.md R89: decryption is the same primitive under the reversed words, and with the schedule of any key
each of E and D undoes the other. -/
def Obligations.Sm4DecryptionInvertsEncryption : Prop :=
  (∀ ks b, decryptBlock ks b = crypt ks.dec b)
    ∧ ∀ key b, decryptBlock (keyExp key) (encryptBlock (keyExp key) b) = b
        ∧ encryptBlock (keyExp key) (decryptBlock (keyExp key) b) = b

/-- 40_sm4.md R95: the fixed vector. -/
def Obligations.Sm4FixedVector : Prop :=
  encryptBlock (keyExp 0x0123456789ABCDEFFEDCBA9876543210) 0x0123456789ABCDEFFEDCBA9876543210
    = 0x681EDF34D206965E86B3E94F536E4246

/-- 40_sm4.md R90: SM4.INIT completes with the key's schedule in KS0 and no unit bound. -/
def Obligations.Sm4InitCompletes : Prop :=
  ∀ s : State, s.fault = false → s.keyLen.toNat = 16 → InMemory s s.keyAddr.toNat 16 →
    exec .sm4Init s = .next
      { s with
        ks0 := keyExp (s.mem.block s.keyAddr.toNat)
        active := none, iv := 0, ksb := 0, kpos := 16, tagLenL := 0, nonceLenL := 0, dialL := 0, spos := 0
        err := none, outLen := 0 }

/-- 40_sm4.md R91, R92, R93, R94: the four data commands complete. One block, or CONC of them, lane by lane;
nothing but those bytes of dst, OUT_LEN and ERR changes. -/
def Obligations.Sm4DataCommandsComplete : Prop :=
  ∀ s : State, s.mem.wf → s.fault = false → s.ks0.valid = true →
    (16 ≤ s.srcLen.toNat → Windows s 16 16 →
      (∃ t, exec .sm4Enc s = .next t ∧ t = { s with mem := t.mem, err := none, outLen := 16 }
        ∧ SameOutside s.mem t.mem s.dstAddr.toNat 16 ∧ dstBlock s t 0 = encryptBlock s.ks0 (srcBlock s 0))
      ∧ ∃ t, exec .sm4Dec s = .next t ∧ t = { s with mem := t.mem, err := none, outLen := 16 }
        ∧ SameOutside s.mem t.mem s.dstAddr.toNat 16 ∧ dstBlock s t 0 = decryptBlock s.ks0 (srcBlock s 0))
    ∧ (16 * s.params.conc ≤ s.srcLen.toNat → Windows s (16 * s.params.conc) (16 * s.params.conc) →
      (∃ t, exec .sm4Encb s = .next t
        ∧ t = { s with mem := t.mem, err := none, outLen := BitVec.ofNat 64 (16 * s.params.conc) }
        ∧ SameOutside s.mem t.mem s.dstAddr.toNat (16 * s.params.conc)
        ∧ ∀ j < s.params.conc, dstBlock s t j = encryptBlock s.ks0 (srcBlock s j))
      ∧ ∃ t, exec .sm4Decb s = .next t
        ∧ t = { s with mem := t.mem, err := none, outLen := BitVec.ofNat 64 (16 * s.params.conc) }
        ∧ SameOutside s.mem t.mem s.dstAddr.toNat (16 * s.params.conc)
        ∧ ∀ j < s.params.conc, dstBlock s t j = decryptBlock s.ks0 (srcBlock s j))

/-! ## The GF(2^128) engine -/

/-- 41_gf128.md R100, R102, R105: `Double` is multiplication by x modulo 1 + x + x² + x⁷ + x¹²⁸, coefficient
by coefficient, and RED[m] is what four doublings make of the coefficients x^124 to x^127. -/
def Obligations.DoubleMultipliesByX : Prop :=
  (∀ e : Elem, coeff (gfDouble e) 0 = coeff e 127
    ∧ ∀ k < 127, coeff (gfDouble e) (k + 1) = ((coeff e 127 && [1, 2, 7].contains (k + 1)) ^^ coeff e k))
  ∧ ∀ m < 16, gfDouble (gfDouble (gfDouble (gfDouble ⟨0, BitVec.ofNat 64 m⟩)))
      = ⟨(redTable.getD m 0).setWidth 64 <<< 48, 0⟩

/-- 41_gf128.md R103, R104: entry j of the product table is H times the polynomial whose x⁰ coefficient is the
top bit of the nibble j. -/
def Obligations.TableEntriesAreMultiplesOfH : Prop :=
  ∀ h : Block, (tableBuild h).length = 16
    ∧ ∀ j < 16, tableEntry (tableBuild h) j = fieldMul ⟨BitVec.ofNat 64 j <<< 60, 0⟩ (elemOfBlock h)

/-- 41_gf128.md R106: the table multiply is the product in the field of R100, for every hash key and every y. -/
def Obligations.TableMultiplyIsTheFieldProduct : Prop :=
  ∀ (h : Block) (y : Elem), gfMul (tableBuild h) y = fieldMul y (elemOfBlock h)

/-- 41_gf128.md R109: the multiply is linear, `Update` from zero is linear for equal lengths, and GHASH is
affine. -/
def Obligations.GhashIsAffine : Prop :=
  ∀ h : Block,
    (∀ u v, gfMul (tableBuild h) (gfAdd u v) = gfAdd (gfMul (tableBuild h) u) (gfMul (tableBuild h) v))
    ∧ (∀ a b : Bytes, a.length = b.length →
        gfUpdate (tableBuild h) Elem.zero (xorBytes a b)
          = gfAdd (gfUpdate (tableBuild h) Elem.zero a) (gfUpdate (tableBuild h) Elem.zero b))
    ∧ ∀ a b c d : Bytes, a.length = b.length → c.length = d.length →
        ghash (tableBuild h) (xorBytes a b) (xorBytes c d)
          = ghash (tableBuild h) a c ^^^ ghash (tableBuild h) b d
            ^^^ ghash (tableBuild h) (zeros a.length) (zeros c.length)

/-- 41_gf128.md R110: GF.INIT completes with the table of the hash key; a bound unit that owns the table is
unbound, any other stays as it is. -/
def Obligations.GfInitCompletes : Prop :=
  ∀ s : State, s.fault = false → s.auxLen.toNat = 16 → InMemory s s.auxAddr.toNat 16 →
    (s.active ∈ [some .hctr, some .gcm, some .gxm, some .mur] →
      exec .gfInit s = .next
        { s with
          tbl := tableBuild (s.mem.block s.auxAddr.toNat), tblV := true
          active := none, iv := 0, ksb := 0, kpos := 16, tagLenL := 0, nonceLenL := 0, dialL := 0, spos := 0
          err := none, outLen := 0 })
    ∧ (s.active ∉ [some .hctr, some .gcm, some .gxm, some .mur] →
      exec .gfInit s = .next
        { s with tbl := tableBuild (s.mem.block s.auxAddr.toNat), tblV := true, err := none, outLen := 0 })

/-- 41_gf128.md R106, R107, R111, R112: with the table of a hash key H, GF.MUL completes with Y·H in the field,
and GF.UPD with Horner's rule over the blocks of src, a short last one zero-padded. Only Y, ERR and OUT_LEN
change. -/
def Obligations.GfDataCommandsComplete : Prop :=
  ∀ (s : State) (h : Block), s.fault = false → s.tblV = true → s.tbl = tableBuild h →
    exec .gfMul s = .next { s with y := fieldMul s.y (elemOfBlock h), err := none, outLen := 0 }
    ∧ (InMemory s s.srcAddr.toNat s.srcLen.toNat →
        ∃ Y : Nat → Elem, Y 0 = s.y
          ∧ (∀ k < (s.srcLen.toNat + 15) / 16, Y (k + 1) =
              fieldMul (gfAdd (Y k) (elemOfBlock (blockOf ((srcBytes s s.srcLen.toNat).drop (16 * k)))))
                (elemOfBlock h))
          ∧ exec .gfUpd s = .next { s with y := Y ((s.srcLen.toNat + 15) / 16), err := none, outLen := 0 })

/-! ## The mode units of 43_block_stream_modes.md -/

/-- 43_block_stream_modes.md R141, R145, R149, R154, R159, R162, R165, R170; 10_state.md R27: the seven INIT
commands of this file complete: the unit bound, IV loaded (zero for ECB), nothing of an earlier unit left. -/
def Obligations.ModeInitsComplete : Prop :=
  ∀ s : State, s.fault = false → s.ks0.valid = true →
    exec .ecbInit s = .next
      { s with
        active := some .ecb, iv := 0, ksb := 0, kpos := 16, tagLenL := 0, nonceLenL := 0, dialL := 0, spos := 0
        err := none, outLen := 0 }
    ∧ (s.ivLen.toNat = 16 → InMemory s s.ivAddr.toNat 16 →
        ∀ p ∈ [(Instr.cbcInit, ModeUnit.cbc), (.cfbInit, .cfb), (.ofbInit, .ofb), (.ctrInit, .ctr), (.bcInit, .bc),
            (.ofbnlfInit, .ofbnlf)],
          exec p.1 s = .next
            { s with
              active := some p.2, iv := s.mem.block s.ivAddr.toNat
              ksb := 0, kpos := 16, tagLenL := 0, nonceLenL := 0, dialL := 0, spos := 0
              err := none, outLen := 0 })

/-- 43_block_stream_modes.md R144, R152, R168, R173: the three SETIV commands complete with IV replaced and
nothing else, with no need of KS0V. -/
def Obligations.SetIvsComplete : Prop :=
  ∀ s : State, s.fault = false → s.ivLen.toNat = 16 → InMemory s s.ivAddr.toNat 16 →
    ∀ p ∈ [(Instr.cbcSetiv, ModeUnit.cbc), (.bcSetiv, .bc), (.ofbnlfSetiv, .ofbnlf)], s.active = some p.2 →
      exec p.1 s = .next { s with iv := s.mem.block s.ivAddr.toNat, err := none, outLen := 0 }

/-- 43_block_stream_modes.md R142, R146, R147: ECB.ENC and ECB.DEC complete, block by block. -/
def Obligations.EcbCommandsComplete : Prop :=
  ∀ s : State, s.mem.wf → BlockReady .ecb s →
    (∃ t, exec .ecbEnc s = .next t ∧ t = { s with mem := t.mem, err := none, outLen := s.srcLen }
      ∧ SameOutside s.mem t.mem s.dstAddr.toNat s.srcLen.toNat
      ∧ ∀ i < s.srcLen.toNat / 16, dstBlock s t i = encryptBlock s.ks0 (srcBlock s i))
    ∧ ∃ t, exec .ecbDec s = .next t ∧ t = { s with mem := t.mem, err := none, outLen := s.srcLen }
      ∧ SameOutside s.mem t.mem s.dstAddr.toNat s.srcLen.toNat
      ∧ ∀ i < s.srcLen.toNat / 16, dstBlock s t i = decryptBlock s.ks0 (srcBlock s i)

/-- 43_block_stream_modes.md R142, R150, R151: CBC.ENC and CBC.DEC complete. Each block is chained to the
ciphertext block before it, the first to IV; IV ends as the last ciphertext block, or as it was with none. -/
def Obligations.CbcCommandsComplete : Prop :=
  ∀ s : State, s.mem.wf → BlockReady .cbc s →
    (∃ t, exec .cbcEnc s = .next t ∧ t = { s with mem := t.mem, iv := t.iv, err := none, outLen := s.srcLen }
      ∧ SameOutside s.mem t.mem s.dstAddr.toNat s.srcLen.toNat
      ∧ (∀ i < s.srcLen.toNat / 16, dstBlock s t i =
          encryptBlock s.ks0 (srcBlock s i ^^^ if i = 0 then s.iv else dstBlock s t (i - 1)))
      ∧ t.iv = if s.srcLen.toNat = 0 then s.iv else dstBlock s t (s.srcLen.toNat / 16 - 1))
    ∧ ∃ t, exec .cbcDec s = .next t ∧ t = { s with mem := t.mem, iv := t.iv, err := none, outLen := s.srcLen }
      ∧ SameOutside s.mem t.mem s.dstAddr.toNat s.srcLen.toNat
      ∧ (∀ i < s.srcLen.toNat / 16, dstBlock s t i =
          decryptBlock s.ks0 (srcBlock s i) ^^^ if i = 0 then s.iv else srcBlock s (i - 1))
      ∧ t.iv = if s.srcLen.toNat = 0 then s.iv else srcBlock s (s.srcLen.toNat / 16 - 1)

/-- 43_block_stream_modes.md R142, R166, R167: BC.ENC and BC.DEC complete. F starts at IV and collects every
ciphertext block by XOR; IV ends as the last F. -/
def Obligations.BcCommandsComplete : Prop :=
  ∀ s : State, s.mem.wf → BlockReady .bc s →
    (∃ t, exec .bcEnc s = .next t ∧ t = { s with mem := t.mem, iv := t.iv, err := none, outLen := s.srcLen }
      ∧ SameOutside s.mem t.mem s.dstAddr.toNat s.srcLen.toNat
      ∧ ∃ F : Nat → Block, F 0 = s.iv ∧ t.iv = F (s.srcLen.toNat / 16)
        ∧ ∀ i < s.srcLen.toNat / 16,
            dstBlock s t i = encryptBlock s.ks0 (srcBlock s i ^^^ F i) ∧ F (i + 1) = F i ^^^ dstBlock s t i)
    ∧ ∃ t, exec .bcDec s = .next t ∧ t = { s with mem := t.mem, iv := t.iv, err := none, outLen := s.srcLen }
      ∧ SameOutside s.mem t.mem s.dstAddr.toNat s.srcLen.toNat
      ∧ ∃ F : Nat → Block, F 0 = s.iv ∧ t.iv = F (s.srcLen.toNat / 16)
        ∧ ∀ i < s.srcLen.toNat / 16,
            dstBlock s t i = decryptBlock s.ks0 (srcBlock s i) ^^^ F i ∧ F (i + 1) = F i ^^^ srcBlock s i

/-- 43_block_stream_modes.md R142, R171, R172: OFBNLF.ENC and OFBNLF.DEC complete. Block i goes through the
cipher of the key K_(i+1), where K_0 is IV and K_(i+1) = E(KS0, K_i); IV ends as the last K. -/
def Obligations.OfbnlfCommandsComplete : Prop :=
  ∀ s : State, s.mem.wf → BlockReady .ofbnlf s →
    (∃ t, exec .ofbnlfEnc s = .next t ∧ t = { s with mem := t.mem, iv := t.iv, err := none, outLen := s.srcLen }
      ∧ SameOutside s.mem t.mem s.dstAddr.toNat s.srcLen.toNat
      ∧ t.iv = (encryptBlock s.ks0)^[s.srcLen.toNat / 16] s.iv
      ∧ ∀ i < s.srcLen.toNat / 16,
          dstBlock s t i = encryptBlock (keyExp ((encryptBlock s.ks0)^[i + 1] s.iv)) (srcBlock s i))
    ∧ ∃ t, exec .ofbnlfDec s = .next t ∧ t = { s with mem := t.mem, iv := t.iv, err := none, outLen := s.srcLen }
      ∧ SameOutside s.mem t.mem s.dstAddr.toNat s.srcLen.toNat
      ∧ t.iv = (encryptBlock s.ks0)^[s.srcLen.toNat / 16] s.iv
      ∧ ∀ i < s.srcLen.toNat / 16,
          dstBlock s t i = decryptBlock (keyExp ((encryptBlock s.ks0)^[i + 1] s.iv)) (srcBlock s i)

/-- 43_block_stream_modes.md R143, R155, R156: CFB.ENC and CFB.DEC complete, from any KPOS 0 to 16 and for any
length. Byte k uses the keystream byte at position KPOS + k; the feedback is the ciphertext, which is the
output of ENC and the input of DEC; IV ends as the last 16 feedback bytes by their places. -/
def Obligations.CfbCommandsComplete : Prop :=
  ∀ s : State, s.mem.wf → StreamReady .cfb s → s.kpos ≤ 16 →
    ∀ i ∈ [Instr.cfbEnc, .cfbDec], ∃ t, exec i s = .next t
      ∧ t = { s with mem := t.mem, iv := t.iv, ksb := t.ksb, kpos := t.kpos, err := none, outLen := s.srcLen }
      ∧ SameOutside s.mem t.mem s.dstAddr.toNat s.srcLen.toNat
      ∧ ∃ ct : Nat → Byte,
        (∀ k < s.srcLen.toNat,
          (if i = .cfbEnc then t.mem.read (s.dstAddr.toNat + k) else srcByte s k) = ct k
          ∧ t.mem.read (s.dstAddr.toNat + k) = srcByte s k ^^^ cfbKeyByte s.ks0 s.streamCtx ct (s.kpos + k))
        ∧ t.kpos = s.kpos + s.srcLen.toNat - 16 * refills s.kpos s.srcLen.toNat
        ∧ t.ksb = (if refills s.kpos s.srcLen.toNat = 0 then s.ksb
            else encryptBlock s.ks0 (cfbFeedbackBlock s.streamCtx ct (refills s.kpos s.srcLen.toNat - 1)))
        ∧ ∀ j < 16, blockByte t.iv j =
            if j < t.kpos then cfbFeedback s.streamCtx ct (16 * refills s.kpos s.srcLen.toNat + j)
            else if refills s.kpos s.srcLen.toNat = 0 then blockByte s.iv j
            else cfbFeedback s.streamCtx ct (16 * (refills s.kpos s.srcLen.toNat - 1) + j)

/-- 43_block_stream_modes.md R143, R160, R163, R164: OFB.XOR and CTR.XOR complete, from any KPOS 0 to 16 and
for any length. Byte k uses the keystream byte at position KPOS + k: the buffered block, then E(IV), E(E(IV)), ...
for OFB and E(IV), E(IV + 1), ... for CTR. -/
def Obligations.OfbAndCtrCommandsComplete : Prop :=
  ∀ s : State, s.mem.wf → s.kpos ≤ 16 →
    (StreamReady .ofb s →
      ∃ t, exec .ofbXor s = .next t
        ∧ t = { s with mem := t.mem, iv := t.iv, kpos := t.kpos, err := none, outLen := s.srcLen }
        ∧ SameOutside s.mem t.mem s.dstAddr.toNat s.srcLen.toNat
        ∧ (∀ k < s.srcLen.toNat, t.mem.read (s.dstAddr.toNat + k)
            = srcByte s k ^^^ ofbKeyByte s.ks0 s.streamCtx (s.kpos + k))
        ∧ t.kpos = s.kpos + s.srcLen.toNat - 16 * refills s.kpos s.srcLen.toNat
        ∧ t.iv = (encryptBlock s.ks0)^[refills s.kpos s.srcLen.toNat] s.iv)
    ∧ (StreamReady .ctr s →
      ∃ t, exec .ctrXor s = .next t
        ∧ t = { s with mem := t.mem, iv := t.iv, ksb := t.ksb, kpos := t.kpos, err := none, outLen := s.srcLen }
        ∧ SameOutside s.mem t.mem s.dstAddr.toNat s.srcLen.toNat
        ∧ (∀ k < s.srcLen.toNat, t.mem.read (s.dstAddr.toNat + k)
            = srcByte s k ^^^ ctrKeyByte s.ks0 s.streamCtx (s.kpos + k))
        ∧ t.kpos = s.kpos + s.srcLen.toNat - 16 * refills s.kpos s.srcLen.toNat
        ∧ t.ksb = (if refills s.kpos s.srcLen.toNat = 0 then s.ksb
            else encryptBlock s.ks0 (s.iv + BitVec.ofNat 128 (refills s.kpos s.srcLen.toNat - 1)))
        ∧ t.iv = s.iv + BitVec.ofNat 128 (refills s.kpos s.srcLen.toNat))

/-! ## XTS and HCTR -/

/-- 44_xts_hctr.md R183: the IEEE doubling on the little-endian number a tweak is. -/
def Obligations.XtsDoublingIsLittleEndian : Prop :=
  ∀ t : Block,
    beVal (bytesOf (xtsMul2Ieee t)).reverse
      = (2 * beVal (bytesOf t).reverse % 2 ^ 128) ^^^ (if 2 ^ 127 ≤ beVal (bytesOf t).reverse then 0x87 else 0)

/-- 44_xts_hctr.md R181: XTS.INIT completes with both schedules, the dialect latched and XTS bound. -/
def Obligations.XtsInitCompletes : Prop :=
  ∀ s : State, s.fault = false → s.keyLen.toNat = 32 → InMemory s s.keyAddr.toNat 32 →
    (s.cfgDialect = 1 → s.params.hasXtsGbMul2 = true) →
    exec .xtsInit s = .next
      { s with
        ks0 := keyExp (s.mem.block s.keyAddr.toNat), ks1 := keyExp (s.mem.block (s.keyAddr.toNat + 16))
        active := some .xts, dialL := s.cfgDialect
        iv := 0, ksb := 0, kpos := 16, tagLenL := 0, nonceLenL := 0, spos := 0
        err := none, outLen := 0 }

/-- 44_xts_hctr.md R182, R184, R185, R186: XTS.ENC and XTS.DEC complete on every sector of 16 bytes to 2^24 − 1,
with ciphertext stealing where it is not whole blocks. T j is the tweak doubled j times, by the dialect's
doubling. Only dst, OUT_LEN and ERR change. -/
def Obligations.XtsCommandsComplete : Prop :=
  ∀ s : State, s.mem.wf → XtsReady s →
    let n := s.srcLen.toNat
    let m := n / 16
    let b := n % 16
    let full := if b = 0 then m else m - 1
    let T : Nat → Block := fun j =>
      (if s.dialL = 1 then Config.xtsGbMul2 else xtsMul2Ieee)^[j]
        (encryptBlock s.ks1 (s.mem.block s.ivAddr.toNat))
    let tail : Bytes := s.mem.readBytes (s.srcAddr.toNat + 16 * m) b
    (∃ t, exec .xtsEnc s = .next t ∧ t = { s with mem := t.mem, err := none, outLen := s.srcLen }
      ∧ SameOutside s.mem t.mem s.dstAddr.toNat n
      ∧ (∀ j < full, dstBlock s t j = encryptBlock s.ks0 (srcBlock s j ^^^ T j) ^^^ T j)
      ∧ (0 < b → ∃ CC PP : Block,
          CC = encryptBlock s.ks0 (srcBlock s (m - 1) ^^^ T (m - 1)) ^^^ T (m - 1)
          ∧ PP = blockOf (tail ++ (bytesOf CC).drop b)
          ∧ dstBlock s t (m - 1) = encryptBlock s.ks0 (PP ^^^ T m) ^^^ T m
          ∧ t.mem.readBytes (s.dstAddr.toNat + 16 * m) b = (bytesOf CC).take b))
    ∧ ∃ t, exec .xtsDec s = .next t ∧ t = { s with mem := t.mem, err := none, outLen := s.srcLen }
      ∧ SameOutside s.mem t.mem s.dstAddr.toNat n
      ∧ (∀ j < full, dstBlock s t j = decryptBlock s.ks0 (srcBlock s j ^^^ T j) ^^^ T j)
      ∧ (0 < b → ∃ PP CC : Block,
          PP = decryptBlock s.ks0 (srcBlock s (m - 1) ^^^ T m) ^^^ T m
          ∧ CC = blockOf (tail ++ (bytesOf PP).drop b)
          ∧ dstBlock s t (m - 1) = decryptBlock s.ks0 (CC ^^^ T (m - 1)) ^^^ T (m - 1)
          ∧ t.mem.readBytes (s.dstAddr.toNat + 16 * m) b = (bytesOf PP).take b)

/-- 44_xts_hctr.md R190: HCTR.INIT completes with the tweak in IV, the hash key's table, and HCTR bound. -/
def Obligations.HctrInitCompletes : Prop :=
  ∀ s : State, s.fault = false → s.ks0.valid = true → s.auxLen.toNat = 16 → s.ivLen.toNat = 16 →
    InMemory s s.ivAddr.toNat 16 → InMemory s s.auxAddr.toNat 16 →
    exec .hctrInit s = .next
      { s with
        tbl := tableBuild (s.mem.block s.auxAddr.toNat), tblV := true
        active := some .hctr, iv := s.mem.block s.ivAddr.toNat
        ksb := 0, kpos := 16, tagLenL := 0, nonceLenL := 0, dialL := 0, spos := 0
        err := none, outLen := 0 }

/-- 44_xts_hctr.md R193, R194, R195: HCTR.ENC and HCTR.DEC complete on every input of 16 bytes and more. The
rest of the data is XORed with E(S ⊕ 1), E(S ⊕ 2), ...; the first block is masked by the hash of the rest. Only
dst, OUT_LEN and ERR change. -/
def Obligations.HctrCommandsComplete : Prop :=
  ∀ s : State, s.mem.wf → HctrReady s →
    let n := s.srcLen.toNat
    let U : Bytes → Block := uhash s.tbl s.iv
    let srcRest : Bytes := s.mem.readBytes (s.srcAddr.toNat + 16) (n - 16)
    let counter : Block → Nat → Block := fun S i => S ^^^ (BitVec.ofNat 64 i).setWidth 128
    (∃ t Z1 Z2, exec .hctrEnc s = .next t ∧ t = { s with mem := t.mem, err := none, outLen := s.srcLen }
      ∧ SameOutside s.mem t.mem s.dstAddr.toNat n
      ∧ Z1 = srcBlock s 0 ^^^ U srcRest ∧ Z2 = encryptBlock s.ks0 Z1
      ∧ (∀ k < n - 16, t.mem.read (s.dstAddr.toNat + 16 + k) = s.mem.read (s.srcAddr.toNat + 16 + k)
          ^^^ blockByte (encryptBlock s.ks0 (counter (Z1 ^^^ Z2) (k / 16 + 1))) (k % 16))
      ∧ dstBlock s t 0 = Z2 ^^^ U (t.mem.readBytes (s.dstAddr.toNat + 16) (n - 16)))
    ∧ ∃ t Z1 Z2, exec .hctrDec s = .next t ∧ t = { s with mem := t.mem, err := none, outLen := s.srcLen }
      ∧ SameOutside s.mem t.mem s.dstAddr.toNat n
      ∧ Z2 = srcBlock s 0 ^^^ U srcRest ∧ Z1 = decryptBlock s.ks0 Z2
      ∧ (∀ k < n - 16, t.mem.read (s.dstAddr.toNat + 16 + k) = s.mem.read (s.srcAddr.toNat + 16 + k)
          ^^^ blockByte (encryptBlock s.ks0 (counter (Z1 ^^^ Z2) (k / 16 + 1))) (k % 16))
      ∧ dstBlock s t 0 = Z1 ^^^ U (t.mem.readBytes (s.dstAddr.toNat + 16) (n - 16))

/-- 44_xts_hctr.md R191, R192: "In effect M ‖ TW is hashed as one string, zero padded, then the length word". Where
the 8·(|M| + 16) bits are 2^64 or more the 64 bits of the length word are a free value (log 11). -/
def Obligations.UhashIsOneHashOfMessageAndTweak : Prop :=
  ∀ (p : List Elem) (tw : Block) (m : Bytes), ∃ L : DWord,
    (8 * (m.length + 16) < 2 ^ 64 → L.toNat = 8 * (m.length + 16))
    ∧ (2 ^ 64 ≤ 8 * (m.length + 16) → L = Config.overlongBitLength (m.length + 16))
    ∧ uhash p tw m = blockOfElem
      (gfMul p (gfAdd (gfUpdate p Elem.zero (m ++ bytesOf tw)) ⟨0, L⟩))

/-- 42_gcm.md R124; 43_block_stream_modes.md R164: the two counter increments. `inc32` counts in the last four
bytes only, with no carry out of them; `inc128` counts in all sixteen. -/
def Obligations.CounterIncrements : Prop :=
  ∀ cb : Block,
    (inc32 cb).toNat = cb.toNat / 2 ^ 32 * 2 ^ 32 + (cb.toNat % 2 ^ 32 + 1) % 2 ^ 32
    ∧ (inc128 cb).toNat = (cb.toNat + 1) % 2 ^ 128

/-! ## The AEAD units -/

/-- 42_gcm.md R121; 45_ccm_gxm_mur.md R203, R212, R220: the four AEAD INIT commands complete. GCM takes its hash
key from E(0), GXM and MUR theirs from AUX; CCM leaves the table alone; GCM and CCM latch the nonce size. -/
def Obligations.AeadInitsComplete : Prop :=
  ∀ s : State, s.fault = false →
    (s.ks0.valid = true → 12 ≤ s.cfgTagLen.toNat → s.cfgTagLen.toNat ≤ 16 → s.ivLen.toNat ≠ 0 →
      exec .gcmInit s = .next
        { s with
          tbl := tableBuild (encryptBlock s.ks0 0), tblV := true
          active := some .gcm, tagLenL := s.cfgTagLen, nonceLenL := s.ivLen
          iv := 0, ksb := 0, kpos := 16, dialL := 0, spos := 0, err := none, outLen := 0 })
    ∧ (s.ks0.valid = true → s.cfgTagLen.toNat ∈ [4, 6, 8, 10, 12, 14, 16] → 7 ≤ s.ivLen.toNat → s.ivLen.toNat ≤ 13 →
      exec .ccmInit s = .next
        { s with
          active := some .ccm, tagLenL := s.cfgTagLen, nonceLenL := s.ivLen
          iv := 0, ksb := 0, kpos := 16, dialL := 0, spos := 0, err := none, outLen := 0 })
    ∧ (s.auxLen.toNat = 16 → 8 ≤ s.cfgTagLen.toNat → s.cfgTagLen.toNat ≤ 16 → InMemory s s.auxAddr.toNat 16 →
      (s.params.hasGxmKs = true →
        exec .gxmInit s = .next
          { s with
            tbl := tableBuild (s.mem.block s.auxAddr.toNat), tblV := true
            active := some .gxm, tagLenL := s.cfgTagLen, nonceLenL := 0
            iv := 0, ksb := 0, kpos := 16, dialL := 0, spos := 0, err := none, outLen := 0 })
      ∧ (s.params.hasStreamNew = true →
        exec .murInit s = .next
          { s with
            tbl := tableBuild (s.mem.block s.auxAddr.toNat), tblV := true
            active := some .mur, tagLenL := s.cfgTagLen, nonceLenL := 0
            iv := 0, ksb := 0, kpos := 16, dialL := 0, spos := 0, err := none, outLen := 0 }))

/-- 42_gcm.md R123 to R126, R129 to R132: GCM.SEAL completes; GCM.OPEN completes with the plaintext where the
received tag is the computed one, and otherwise zero-fills dst and ends in E_AUTH. Counter block i counts i from
J0 in the last four bytes. Only dst, OUT_LEN and ERR change. -/
def Obligations.GcmCommandsComplete : Prop :=
  ∀ s : State, s.mem.wf →
    let n := s.srcLen.toNat
    let t := s.tagLenL.toNat
    let J0 : Block :=
      if s.ivLen.toNat = 12 then blockOf (ivBytes s ++ [0x00, 0x00, 0x00, 0x01]) else ghash s.tbl [] (ivBytes s)
    let counter : Nat → Block := fun i => J0.extractLsb' 32 96 ++ (J0.extractLsb' 0 32 + BitVec.ofNat 32 i)
    let keyByte : Nat → Byte := fun k => blockByte (encryptBlock s.ks0 (counter (k / 16 + 1))) (k % 16)
    let tagOf : Bytes → Bytes := fun ct => (bytesOf (ghash s.tbl (aadBytes s) ct ^^^ encryptBlock s.ks0 J0)).take t
    (t ≤ 16 → GcmReady s n → SealWindows s →
      ∃ u, exec .gcmSeal s = .next u
        ∧ u = { s with mem := u.mem, err := none, outLen := BitVec.ofNat 64 (n + t) }
        ∧ SameOutside s.mem u.mem s.dstAddr.toNat (n + t)
        ∧ (∀ k < n, u.mem.read (s.dstAddr.toNat + k) = srcByte s k ^^^ keyByte k)
        ∧ u.mem.readBytes (s.dstAddr.toNat + n) t = tagOf (u.mem.readBytes s.dstAddr.toNat n))
    ∧ (GcmReady s (openLen s) → OpenWindows s →
      (tagOf (srcBytes s (openLen s)) = receivedTag s →
        ∃ u, exec .gcmOpen s = .next u
          ∧ u = { s with mem := u.mem, err := none, outLen := BitVec.ofNat 64 (openLen s) }
          ∧ SameOutside s.mem u.mem s.dstAddr.toNat (openLen s)
          ∧ ∀ k < openLen s, u.mem.read (s.dstAddr.toNat + k) = srcByte s k ^^^ keyByte k)
      ∧ (tagOf (srcBytes s (openLen s)) ≠ receivedTag s →
        ∃ u, exec .gcmOpen s = .next u
          ∧ u = { s with mem := u.mem, err := some .auth, outLen := 0 }
          ∧ Written s.mem u.mem s.dstAddr.toNat (zeros (openLen s))))

/-- 45_ccm_gxm_mur.md R206 to R210: CCM.SEAL completes; CCM.OPEN completes with the plaintext where the received
tag is the one computed over it, and otherwise zero-fills dst and ends in E_AUTH. X is the CBC-MAC register over
the blocks of `B0 ‖ FormatAad ‖ ZeroPad16`; the tag's mask is the enciphered counter block 0 (log 7). Only dst,
OUT_LEN and ERR change. -/
def Obligations.CcmCommandsComplete : Prop :=
  ∀ s : State, s.mem.wf →
    let n := s.srcLen.toNat
    let t := s.tagLenL.toNat
    let L := 15 - s.ivLen.toNat
    let counter : Nat → Block := fun i => blockOf ([BitVec.ofNat 8 (L - 1)] ++ ivBytes s ++ be L i)
    let keyByte : Nat → Byte := fun k => blockByte (encryptBlock s.ks0 (counter (k / 16 + 1))) (k % 16)
    let IsTag : Bytes → Bytes → Prop := fun pt T => ∃ X : Nat → Block, X 0 = 0
      ∧ (∀ i b, (blocksOf (ccmB0 t (ivBytes s) (aadBytes s) pt.length ++ ccmFormatAad (aadBytes s)
            ++ zeroPad16 pt))[i]? = some b → X (i + 1) = encryptBlock s.ks0 (X i ^^^ b))
      ∧ T = (bytesOf (X (1 + (ccmFormatAad (aadBytes s)).length / 16 + (pt.length + 15) / 16)
            ^^^ encryptBlock s.ks0 (counter 0))).take t
    (t ≤ 16 → s.ivLen.toNat ≤ 13 → CcmReady s n → SealWindows s →
      ∃ u, exec .ccmSeal s = .next u
        ∧ u = { s with mem := u.mem, err := none, outLen := BitVec.ofNat 64 (n + t) }
        ∧ SameOutside s.mem u.mem s.dstAddr.toNat (n + t)
        ∧ (∀ k < n, u.mem.read (s.dstAddr.toNat + k) = srcByte s k ^^^ keyByte k)
        ∧ IsTag (srcBytes s n) (u.mem.readBytes (s.dstAddr.toNat + n) t))
    ∧ (s.ivLen.toNat ≤ 13 → CcmReady s (openLen s) → OpenWindows s → ∀ pt : Bytes, pt.length = openLen s →
      (∀ k < openLen s, pt.getD k 0 = srcByte s k ^^^ keyByte k) →
      (IsTag pt (receivedTag s) →
        ∃ u, exec .ccmOpen s = .next u
          ∧ u = { s with mem := u.mem, err := none, outLen := BitVec.ofNat 64 (openLen s) }
          ∧ Written s.mem u.mem s.dstAddr.toNat pt)
      ∧ (¬ IsTag pt (receivedTag s) →
        ∃ u, exec .ccmOpen s = .next u
          ∧ u = { s with mem := u.mem, err := some .auth, outLen := 0 }
          ∧ Written s.mem u.mem s.dstAddr.toNat (zeros (openLen s))))

/-- 45_ccm_gxm_mur.md R204, R205: the layout of CCM's B0 (flags, nonce, length) and of its associated-data
header: the length framed by its size, the data, and the fewest zero bytes to whole blocks. -/
def Obligations.CcmFormatting : Prop :=
  (∀ (m : Nat) (nonce aad : Bytes) (n : Nat), m ∈ [4, 6, 8, 10, 12, 14, 16] → 7 ≤ nonce.length → nonce.length ≤ 13 →
    (ccmB0 m nonce aad n).length = 16
    ∧ (∃ flags : Byte, (ccmB0 m nonce aad n).head? = some flags
        ∧ flags.getLsbD 6 = decide (0 < aad.length)
        ∧ (flags.extractLsb' 3 3).toNat = (m - 2) / 2 ∧ (flags.extractLsb' 0 3).toNat = 14 - nonce.length
        ∧ flags.getLsbD 7 = false)
    ∧ ((ccmB0 m nonce aad n).drop 1).take nonce.length = nonce
    ∧ (ccmB0 m nonce aad n).drop (1 + nonce.length) = be (15 - nonce.length) n)
  ∧ ∀ aad : Bytes, (ccmFormatAad aad).length % 16 = 0
    ∧ (aad.length = 0 → ccmFormatAad aad = [])
    ∧ (0 < aad.length → aad.length < 65280 →
        ∃ k < 16, ccmFormatAad aad = be 2 aad.length ++ aad ++ zeros k)
    ∧ (65280 ≤ aad.length → aad.length < 2 ^ 32 →
        ∃ k < 16, ccmFormatAad aad = [0xFF, 0xFE] ++ be 4 aad.length ++ aad ++ zeros k)
    ∧ (2 ^ 32 ≤ aad.length →
        ∃ k < 16, ccmFormatAad aad = [0xFF, 0xFF] ++ be 8 aad.length ++ aad ++ zeros k)

/-- 45_ccm_gxm_mur.md R213, R214, R215; 42_gcm.md R132: GXM.SEAL completes; GXM.OPEN completes with the plaintext
where the received tag is the computed one, and otherwise zero-fills dst and ends in E_AUTH with SPOS advanced
by the tag length only. The mask comes first from the stream, the data keystream after it. (The index of GXM_KS is
not reduced modulo 2^64 inside one Take, only SPOS is, after it: the model's reading of R213, log 14, DEDUCED.) -/
def Obligations.GxmCommandsComplete : Prop :=
  ∀ s : State, s.mem.wf → GxmReady s →
    let n := s.srcLen.toNat
    let t := s.tagLenL.toNat
    let next : DWord := s.spos + BitVec.ofNat 64 t
    let keyByte : Nat → Byte := fun k => Config.gxmKs (next.toNat + k)
    let IsTag : Bytes → Bytes → Prop := fun ct T => T.length = t ∧ ∀ j < t,
      T.getD j 0 = blockByte (ghash s.tbl (aadBytes s) ct) j ^^^ Config.gxmKs (s.spos.toNat + j)
    (t ≤ 16 → SealWindows s →
      ∃ u, exec .gxmSeal s = .next u
        ∧ u = { s with
            mem := u.mem, spos := next + BitVec.ofNat 64 n, err := none, outLen := BitVec.ofNat 64 (n + t) }
        ∧ SameOutside s.mem u.mem s.dstAddr.toNat (n + t)
        ∧ (∀ k < n, u.mem.read (s.dstAddr.toNat + k) = srcByte s k ^^^ keyByte k)
        ∧ IsTag (u.mem.readBytes s.dstAddr.toNat n) (u.mem.readBytes (s.dstAddr.toNat + n) t))
    ∧ (t ≤ 16 → OpenWindows s →
      (IsTag (srcBytes s (openLen s)) (receivedTag s) →
        ∃ u, exec .gxmOpen s = .next u
          ∧ u = { s with
              mem := u.mem, spos := next + BitVec.ofNat 64 (openLen s), err := none
              outLen := BitVec.ofNat 64 (openLen s) }
          ∧ SameOutside s.mem u.mem s.dstAddr.toNat (openLen s)
          ∧ ∀ k < openLen s, u.mem.read (s.dstAddr.toNat + k) = srcByte s k ^^^ keyByte k)
      ∧ (¬ IsTag (srcBytes s (openLen s)) (receivedTag s) →
        ∃ u, exec .gxmOpen s = .next u
          ∧ u = { s with mem := u.mem, spos := next, err := some .auth, outLen := 0 }
          ∧ Written s.mem u.mem s.dstAddr.toNat (zeros (openLen s))))

/-- 45_ccm_gxm_mur.md R221 to R225; 42_gcm.md R132: MUR.SEAL and MUR.OPEN complete, whatever the factory
answers: with the result where it gives both streams (and, in OPEN, the tags agree), with dst zero-filled and
E_AUTH where they do not, and with E_STREAM and nothing else changed where it refuses one. `tagIv` and `dataIv`
give the two stream IVs byte by byte. -/
def Obligations.MurCommandsComplete : Prop :=
  ∀ s : State, s.mem.wf → MurReady s → s.tagLenL.toNat ≤ 16 →
    let n := s.srcLen.toNat
    let t := s.tagLenL.toNat
    let iv := ivBytes s
    let tagIv : Bytes → Bytes := fun pt => (List.range iv.length).map fun j =>
      if j < 16 then blockByte (ghash s.tbl (aadBytes s) pt) j ^^^ iv.getD j 0
      else if s.params.murIvTail = .literal then 0 else iv.getD j 0
    let dataIv : Bytes → Bytes := fun tag => (List.range iv.length).map fun j =>
      if j < t then iv.getD j 0 ^^^ tag.getD j 0 else iv.getD j 0
    let refused : State := { s with err := some .stream, outLen := 0 }
    (SealWindows s →
      ∃ u, exec .murSeal s = .next u
        ∧ (Config.streamNew (auxBytes s) (tagIv (srcBytes s n)) = none → u = refused)
        ∧ ∀ tagKs, Config.streamNew (auxBytes s) (tagIv (srcBytes s n)) = some tagKs →
          (Config.streamNew (keyBytes s) (dataIv ((List.range t).map tagKs)) = none → u = refused)
          ∧ ∀ ks, Config.streamNew (keyBytes s) (dataIv ((List.range t).map tagKs)) = some ks →
            u = { s with mem := u.mem, err := none, outLen := BitVec.ofNat 64 (n + t) }
            ∧ SameOutside s.mem u.mem s.dstAddr.toNat (n + t)
            ∧ (∀ k < n, u.mem.read (s.dstAddr.toNat + k) = srcByte s k ^^^ ks k)
            ∧ ∀ j < t, u.mem.read (s.dstAddr.toNat + n + j) = tagKs j)
    ∧ (OpenWindows s →
      ∃ u, exec .murOpen s = .next u
        ∧ (Config.streamNew (keyBytes s) (dataIv (receivedTag s)) = none → u = refused)
        ∧ ∀ ks, Config.streamNew (keyBytes s) (dataIv (receivedTag s)) = some ks →
          ∀ pt : Bytes, pt = (List.range (openLen s)).map (fun k => srcByte s k ^^^ ks k) →
          (Config.streamNew (auxBytes s) (tagIv pt) = none → u = refused)
          ∧ ∀ tagKs, Config.streamNew (auxBytes s) (tagIv pt) = some tagKs →
            ((List.range t).map tagKs = receivedTag s →
              u = { s with mem := u.mem, err := none, outLen := BitVec.ofNat 64 (openLen s) }
              ∧ Written s.mem u.mem s.dstAddr.toNat pt)
            ∧ ((List.range t).map tagKs ≠ receivedTag s →
              u = { s with mem := u.mem, err := some .auth, outLen := 0 }
              ∧ Written s.mem u.mem s.dstAddr.toNat (zeros (openLen s))))

/-! ## Laws over more than one command -/

/-- 20_memory.md R55, the chunking law. Two commands of one direction, on the first k bytes and on the rest,
leave the memory bytes and the mode context that one command on the whole leaves. In the block units k is a
number of whole blocks. -/
def Obligations.ChunkingLaw : Prop :=
  ∀ (i : Instr) (u : ModeUnit) (s : State) (k : Nat),
    (i, u) ∈ [(Instr.cbcEnc, ModeUnit.cbc), (.cbcDec, .cbc), (.bcEnc, .bc), (.bcDec, .bc), (.ofbnlfEnc, .ofbnlf),
      (.ofbnlfDec, .ofbnlf), (.cfbEnc, .cfb), (.cfbDec, .cfb), (.ofbXor, .ofb), (.ctrXor, .ctr)] →
    s.mem.wf → s.params.wellFormed = true → StreamReady u s → k ≤ s.srcLen.toNat →
    (u ∈ [.cbc, .bc, .ofbnlf] → s.srcLen.toNat % 16 = 0 ∧ k % 16 = 0) →
    ∃ w t1 t2,
      exec i s = .next w
      ∧ exec i { s with srcLen := BitVec.ofNat 64 k } = .next t1
      ∧ exec i { t1 with
          srcAddr := s.srcAddr + BitVec.ofNat 64 k, srcLen := s.srcLen - BitVec.ofNat 64 k
          dstAddr := s.dstAddr + BitVec.ofNat 64 k, dstCap := s.dstCap - BitVec.ofNat 64 k } = .next t2
      ∧ w.err = none ∧ t1.err = none ∧ t2.err = none
      ∧ (∀ x, t2.mem.read x = w.mem.read x)
      ∧ t2.iv = w.iv ∧ t2.ksb = w.ksb ∧ t2.kpos = w.kpos

/-- 43_block_stream_modes.md R175: for every unit of that file, the reverse command on the result of the forward
command, from the same mode context and with KS0 the schedule of a key, gives the input back. v is any state
whose src holds that result: a later state of the same core, with buffers where the host likes. -/
def Obligations.ModeRoundTrips : Prop :=
  ∀ (e d : Instr) (u : ModeUnit) (key : Block) (s t v : State),
    (e, d, u) ∈ [(Instr.ecbEnc, Instr.ecbDec, ModeUnit.ecb), (.cbcEnc, .cbcDec, .cbc), (.cfbEnc, .cfbDec, .cfb),
      (.ofbXor, .ofbXor, .ofb), (.ctrXor, .ctrXor, .ctr), (.bcEnc, .bcDec, .bc), (.ofbnlfEnc, .ofbnlfDec, .ofbnlf)] →
    s.mem.wf → v.mem.wf → s.ks0 = keyExp key → v.ks0 = s.ks0 → v.iv = s.iv → v.ksb = s.ksb → v.kpos = s.kpos →
    StreamReady u s → (u ∈ [.ecb, .cbc, .bc, .ofbnlf] → s.srcLen.toNat % 16 = 0) →
    exec e s = .next t →
    v.srcLen = s.srcLen → srcBytes v s.srcLen.toNat = t.mem.readBytes s.dstAddr.toNat s.srcLen.toNat →
    StreamReady u v →
    ∃ w, exec d v = .next w ∧ w.err = none
      ∧ w.mem.readBytes v.dstAddr.toNat s.srcLen.toNat = srcBytes s s.srcLen.toNat

/-- 44_xts_hctr.md R186 ("encrypt-then-decrypt recovers the original bytes exactly", stolen blocks included) and
R195 ("`encrypt` and `decrypt` are inverses for all inputs of valid length"), both ways round, in either XTS
dialect. -/
def Obligations.XtsAndHctrRoundTrips : Prop :=
  ∀ (e d : Instr) (key : Block) (s t v : State),
    s.mem.wf → v.mem.wf → s.ks0 = keyExp key → v.ks0 = s.ks0 → exec e s = .next t →
    v.srcLen = s.srcLen → srcBytes v s.srcLen.toNat = t.mem.readBytes s.dstAddr.toNat s.srcLen.toNat →
    ((e, d) ∈ [(Instr.xtsEnc, Instr.xtsDec), (.xtsDec, .xtsEnc)] → XtsReady s → XtsReady v →
      v.ks1 = s.ks1 → v.dialL = s.dialL → v.mem.block v.ivAddr.toNat = s.mem.block s.ivAddr.toNat →
      ∃ w, exec d v = .next w ∧ w.err = none
        ∧ w.mem.readBytes v.dstAddr.toNat s.srcLen.toNat = srcBytes s s.srcLen.toNat)
    ∧ ((e, d) ∈ [(Instr.hctrEnc, Instr.hctrDec), (.hctrDec, .hctrEnc)] → HctrReady s → HctrReady v →
      v.tbl = s.tbl → v.iv = s.iv →
      ∃ w, exec d v = .next w ∧ w.err = none
        ∧ w.mem.readBytes v.dstAddr.toNat s.srcLen.toNat = srcBytes s s.srcLen.toNat)

/-- 42_gcm.md R130; 45_ccm_gxm_mur.md R226: OPEN of what SEAL produced, under the same instance, stream position,
nonce and associated data, verifies and gives the plaintext. The iv operand is asked of the units that read it (all
but GXM), the key and aux operands of MUR alone. For MUR this says: where SEAL ends without E_STREAM. -/
def Obligations.OpenUndoesSeal : Prop :=
  ∀ (e d : Instr) (u : ModeUnit) (s t v : State),
    (e, d, u) ∈ [(Instr.gcmSeal, Instr.gcmOpen, ModeUnit.gcm), (.ccmSeal, .ccmOpen, .ccm), (.gxmSeal, .gxmOpen, .gxm),
      (.murSeal, .murOpen, .mur)] →
    s.mem.wf → v.mem.wf → s.fault = false → s.active = some u → s.tagLenL.toNat ≤ 16 →
    exec e s = .next t → t.err = none →
    v.params = s.params → v.fault = false → v.active = s.active → v.ks0 = s.ks0 → v.tbl = s.tbl → v.tblV = s.tblV →
    v.tagLenL = s.tagLenL → v.nonceLenL = s.nonceLenL → v.spos = s.spos →
    v.aadLen = s.aadLen → aadBytes v = aadBytes s → InMemory v v.aadAddr.toNat v.aadLen.toNat →
    (u ≠ .gxm → v.ivLen = s.ivLen ∧ ivBytes v = ivBytes s ∧ InMemory v v.ivAddr.toNat v.ivLen.toNat) →
    (u = .mur → keyBytes v = keyBytes s ∧ auxBytes v = auxBytes s
      ∧ InMemory v v.keyAddr.toNat v.keyLen.toNat ∧ InMemory v v.auxAddr.toNat v.auxLen.toNat) →
    v.srcLen.toNat = s.srcLen.toNat + s.tagLenL.toNat →
    srcBytes v v.srcLen.toNat = t.mem.readBytes s.dstAddr.toNat v.srcLen.toNat →
    OpenWindows v →
    ∃ w, exec d v = .next w ∧ w.err = none ∧ w.outLen = s.srcLen
      ∧ w.mem.readBytes v.dstAddr.toNat s.srcLen.toNat = srcBytes s s.srcLen.toNat
end

