-- ==== Sys2Proof/Laws/Bytes.lean ====
section
/-! SUPPORT. The laws of byte strings and blocks: lengths, the big-endian round trips (20_memory.md R45), the
bytes of a block, and cutting a string into blocks (43_block_stream_modes.md R142). -/

namespace Sys2Proof.Machine

/-! ## Big-endian strings -/

@[simp] theorem be_length (n v : Nat) : (be n v).length = n := by
  induction n generalizing v with
  | zero => rfl
  | succ n ih => simp [be, ih]

theorem beVal_append (a b : Bytes) : beVal (a ++ b) = beVal a * 256 ^ b.length + beVal b := by
  suffices h : ∀ (v : Nat), b.foldl (fun v x => v * 256 + x.toNat) v = v * 256 ^ b.length + beVal b by
    simp [beVal, List.foldl_append] at h ⊢
    exact h _
  induction b with
  | nil => simp [beVal]
  | cons x b ih =>
    intro v
    simp only [List.foldl_cons, List.length_cons, beVal]
    rw [ih, ih (0 * 256 + x.toNat)]
    ring

@[simp] theorem beVal_nil : beVal [] = 0 := rfl

theorem beVal_lt (bs : Bytes) : beVal bs < 256 ^ bs.length := by
  induction bs using List.reverseRecOn with
  | nil => simp
  | append_singleton bs x ih =>
    rw [beVal_append, List.length_append, pow_add]
    have : beVal [x] < 256 := by simpa [beVal] using x.isLt
    simp only [List.length_singleton, pow_one]
    omega

/-- Reading back what `be` wrote. -/
theorem beVal_be {n v : Nat} (h : v < 256 ^ n) : beVal (be n v) = v := by
  induction n generalizing v with
  | zero => simp at h; simp [be, h]
  | succ n ih =>
    rw [be, beVal_append, ih (by rw [pow_succ] at h; omega)]
    simp [beVal]
    omega

/-- A byte string is the big-endian form of its value. -/
theorem be_beVal (bs : Bytes) : be bs.length (beVal bs) = bs := by
  induction bs using List.reverseRecOn with
  | nil => rfl
  | append_singleton bs x ih =>
    have hx : beVal [x] = x.toNat := by simp [beVal]
    have hlt : x.toNat < 256 := x.isLt
    rw [beVal_append, List.length_append, hx, List.length_singleton, pow_one, be,
      show (beVal bs * 256 + x.toNat) / 256 = beVal bs by omega, ih]
    congr 2
    apply BitVec.eq_of_toNat_eq
    simp only [BitVec.toNat_ofNat]
    omega

/-! ## Blocks -/

@[simp] theorem bytesOf_length (b : Block) : (bytesOf b).length = 16 := be_length ..

@[simp] theorem zeros_length (n : Nat) : (zeros n).length = n := by simp [zeros]

theorem padBlock_length {bs : Bytes} (h : bs.length ≤ 16) : (padBlock bs).length = 16 := by
  simp [padBlock]; omega

theorem padBlock_full {bs : Bytes} (h : bs.length = 16) : padBlock bs = bs := by
  simp [padBlock, h, zeros]

/-- The block of a block's bytes. -/
@[simp] theorem blockOf_bytesOf (b : Block) : blockOf (bytesOf b) = b := by
  have h : b.toNat < 256 ^ 16 := lt_of_lt_of_eq b.isLt (by norm_num)
  rw [blockOf, List.take_of_length_le (by simp), padBlock_full (by simp), bytesOf, beVal_be h]
  simp

/-- The bytes of a 16-byte string's block. -/
theorem bytesOf_blockOf {bs : Bytes} (h : bs.length = 16) : bytesOf (blockOf bs) = bs := by
  have hlt := beVal_lt bs
  rw [h] at hlt
  rw [blockOf, List.take_of_length_le (by omega), padBlock_full h, bytesOf, BitVec.toNat_ofNat,
    Nat.mod_eq_of_lt (lt_of_lt_of_eq hlt (by norm_num)), ← h, be_beVal]

/-- Only the first 16 bytes of a string enter its block. -/
theorem blockOf_take (bs : Bytes) : blockOf (bs.take 16) = blockOf bs := by
  simp [blockOf, List.take_take]

theorem be_getElem? (n v i : Nat) :
    (be n v)[i]? = if i < n then some (BitVec.ofNat 8 (v / 256 ^ (n - 1 - i))) else none := by
  induction n generalizing v with
  | zero => simp [be]
  | succ n ih =>
    rw [be]
    by_cases hi : i < n
    · rw [List.getElem?_append_left (by simpa using hi), ih, if_pos hi, if_pos (by omega),
        Nat.div_div_eq_div_mul, ← pow_succ',
        show n - 1 - i + 1 = n + 1 - 1 - i by omega]
    · rw [List.getElem?_append_right (by simpa using hi)]
      by_cases hn : i = n
      · subst hn; simp
      · rw [if_neg (by omega), List.getElem?_eq_none (by simp; omega)]

/-- Byte j of a block's bytes, from the front, is byte j of the block from its most significant end. -/
theorem getElem?_bytesOf {b : Block} {j : Nat} (h : j < 16) : (bytesOf b)[j]? = some (blockByte b j) := by
  have h1 : BitVec.ofNat 8 (b.toNat / 256 ^ (16 - 1 - j)) = blockByte b j := by
    apply BitVec.eq_of_toNat_eq
    rw [blockByte, BitVec.extractLsb'_toNat, BitVec.toNat_ofNat, Nat.shiftRight_eq_div_pow, pow_mul,
      show 15 - j = 16 - 1 - j from rfl, show (2 : Nat) ^ 8 = 256 by norm_num]
  rw [bytesOf, be_getElem?, if_pos h, h1]

theorem getD_bytesOf {b : Block} {j : Nat} (h : j < 16) : (bytesOf b).getD j 0 = blockByte b j := by
  simp [List.getD, getElem?_bytesOf h]

/-- Two blocks with the same bytes are equal. -/
theorem block_ext {a b : Block} (h : ∀ j < 16, blockByte a j = blockByte b j) : a = b := by
  rw [← blockOf_bytesOf a, ← blockOf_bytesOf b]
  refine congrArg blockOf (List.ext_getElem? fun j => ?_)
  by_cases hj : j < 16
  · rw [getElem?_bytesOf hj, getElem?_bytesOf hj, h j hj]
  · rw [List.getElem?_eq_none (by simp; omega), List.getElem?_eq_none (by simp; omega)]

/-- Byte j of the block a string is: the string's own byte, or 0 past its end. -/
theorem blockByte_blockOf {bs : Bytes} {j : Nat} (h : j < 16) : blockByte (blockOf bs) j = bs.getD j 0 := by
  have hlen : (padBlock (bs.take 16)).length = 16 := padBlock_length (by simp)
  have heq : bytesOf (blockOf bs) = padBlock (bs.take 16) := by
    have h1 : blockOf bs = blockOf (padBlock (bs.take 16)) := by
      conv_rhs => rw [blockOf, List.take_of_length_le (by omega), padBlock_full hlen]
      rfl
    rw [h1, bytesOf_blockOf hlen]
  have := getElem?_bytesOf (b := blockOf bs) h
  rw [heq] at this
  rw [padBlock] at this
  by_cases hj : j < bs.length
  · rw [List.getElem?_append_left (by simp; omega), List.getElem?_take_of_lt h] at this
    simp [List.getD, this]
  · rw [List.getElem?_append_right (by simp; omega)] at this
    rw [List.getD, List.getElem?_eq_none (by omega)]
    simp only [zeros, List.getElem?_replicate, List.length_take] at this
    rw [if_pos (by omega)] at this
    simpa using (Option.some.inj this).symm

theorem blockByte_getLsbD (b : Block) (j i : Nat) :
    (blockByte b j).getLsbD i = (decide (i < 8) && b.getLsbD (8 * (15 - j) + i)) := by
  simp [blockByte]

/-- Replacing byte j replaces that byte only. -/
theorem blockByte_setBlockByte {b : Block} {j k : Nat} {v : Byte} (hj : j < 16) (hk : k < 16) :
    blockByte (setBlockByte b j v) k = if k = j then v else blockByte b k := by
  apply BitVec.eq_of_getLsbD_eq
  intro i hi
  have h255 : ∀ n : Nat, (255#128).getLsbD n = decide (n < 8) := by
    intro n
    by_cases hn : n < 128
    · have : ∀ n : Fin 128, (255#128).getLsbD n.val = decide (n.val < 8) := by decide
      exact this ⟨n, hn⟩
    · rw [BitVec.getLsbD_of_ge _ _ (by omega)]; simp; omega
  rw [blockByte_getLsbD]
  simp only [setBlockByte, BitVec.getLsbD_or, BitVec.getLsbD_and, BitVec.getLsbD_not, BitVec.getLsbD_shiftLeft,
    BitVec.getLsbD_setWidth, h255]
  split_ifs with h
  · subst h
    have h1 : 8 * (15 - k) + i < 128 := by omega
    have h2 : ¬ (8 * (15 - k) + i < 8 * (15 - k)) := by omega
    have h3 : 8 * (15 - k) + i - 8 * (15 - k) = i := by omega
    have h4 : i < 128 := by omega
    simp [h1, h3, hi, h4]
  · rw [blockByte_getLsbD]
    have h1 : 8 * (15 - k) + i < 128 := by omega
    by_cases hlt : 8 * (15 - k) + i < 8 * (15 - j)
    · simp [h1, hlt, hi]
    · have h5 : ¬ (8 * (15 - k) + i - 8 * (15 - j) < 8) := by omega
      have h6 : v.getLsbD (8 * (15 - k) + i - 8 * (15 - j)) = false :=
        BitVec.getLsbD_of_ge _ _ (by omega)
      simp [h1, hlt, hi, h5, h6]

theorem blockByte_xor (a b : Block) (j : Nat) : blockByte (a ^^^ b) j = blockByte a j ^^^ blockByte b j := by
  apply BitVec.eq_of_getLsbD_eq
  intro i hi
  simp [blockByte, hi]

@[simp] theorem bytesOf_xor (a b : Block) : bytesOf (a ^^^ b) = xorBytes (bytesOf a) (bytesOf b) := by
  refine List.ext_getElem? fun j => ?_
  by_cases hj : j < 16
  · rw [getElem?_bytesOf hj, blockByte_xor, xorBytes, List.getElem?_zipWith, getElem?_bytesOf hj,
      getElem?_bytesOf hj]
  · rw [List.getElem?_eq_none (by simp; omega), List.getElem?_eq_none (by simp [xorBytes]; omega)]

@[simp] theorem xorBytes_length (a b : Bytes) : (xorBytes a b).length = min a.length b.length := by
  simp [xorBytes]

/-- XORing a keystream twice gives the data back. -/
theorem xorBytes_xorBytes {a b : Bytes} (h : a.length ≤ b.length) : xorBytes (xorBytes a b) b = a := by
  induction a generalizing b with
  | nil => rfl
  | cons x a ih =>
    cases b with
    | nil => simp at h
    | cons y b =>
      have := ih (b := b) (by simpa using h)
      simp only [xorBytes, List.zipWith_cons_cons] at this ⊢
      rw [this, BitVec.xor_assoc, BitVec.xor_self, BitVec.xor_zero]

/-! ## Cutting into blocks -/

@[simp] theorem pieces_length (k : Nat) (bs : Bytes) : (pieces k bs).length = k := by
  induction k generalizing bs with
  | zero => rfl
  | succ k ih => simp [pieces, ih]

theorem pieces_getElem? (k : Nat) (bs : Bytes) (i : Nat) :
    (pieces k bs)[i]? = if i < k then some ((bs.drop (16 * i)).take 16) else none := by
  induction k generalizing bs i with
  | zero => simp [pieces]
  | succ k ih =>
    cases i with
    | zero => simp [pieces]
    | succ i =>
      rw [pieces, List.getElem?_cons_succ, ih, List.drop_drop]
      simp [Nat.mul_add, Nat.add_comm]

@[simp] theorem chunks16_length (bs : Bytes) : (chunks16 bs).length = (bs.length + 15) / 16 := by
  simp [chunks16]

@[simp] theorem blocksOf_length (bs : Bytes) : (blocksOf bs).length = (bs.length + 15) / 16 := by
  simp [blocksOf]

/-- Block i of a string is the block at byte 16i. -/
theorem blocksOf_getElem? (bs : Bytes) (i : Nat) :
    (blocksOf bs)[i]? = if i < (bs.length + 15) / 16 then some (blockOf (bs.drop (16 * i))) else none := by
  rw [blocksOf, List.getElem?_map, chunks16, pieces_getElem?]
  split_ifs <;> simp [blockOf_take]

/-- Peeling off one whole piece. -/
theorem chunks16_cons {bs : Bytes} (h : bs ≠ []) : chunks16 bs = bs.take 16 :: chunks16 (bs.drop 16) := by
  have hl : 0 < bs.length := List.length_pos_iff.mpr h
  rw [chunks16, chunks16, List.length_drop,
    show (bs.length + 15) / 16 = (bs.length - 16 + 15) / 16 + 1 by omega, pieces]

@[simp] theorem chunks16_nil : chunks16 [] = [] := rfl

@[simp] theorem blocksOf_nil : blocksOf [] = [] := rfl

theorem blocksOf_cons {bs : Bytes} (h : bs ≠ []) : blocksOf bs = blockOf bs :: blocksOf (bs.drop 16) := by
  rw [blocksOf, chunks16_cons h, List.map_cons, blockOf_take, blocksOf]

/-- Cutting a string after whole blocks. -/
theorem chunks16_append {a b : Bytes} (h : a.length % 16 = 0) : chunks16 (a ++ b) = chunks16 a ++ chunks16 b := by
  generalize hn : a.length / 16 = n
  induction n generalizing a with
  | zero =>
    have : a = [] := List.length_eq_zero_iff.mp (by omega)
    subst this; simp
  | succ n ih =>
    have ha : a ≠ [] := by rintro rfl; simp at hn
    have h16 : 16 ≤ a.length := by omega
    rw [chunks16_cons (by simp [ha]), chunks16_cons ha, List.take_append_of_le_length h16,
      List.drop_append_of_le_length h16, ih (by simp; omega) (by simp; omega)]
    rfl

theorem blocksOf_append {a b : Bytes} (h : a.length % 16 = 0) : blocksOf (a ++ b) = blocksOf a ++ blocksOf b := by
  simp [blocksOf, chunks16_append h]

@[simp] theorem bytesOfBlocks_length (bs : List Block) : (bytesOfBlocks bs).length = 16 * bs.length := by
  induction bs with
  | nil => rfl
  | cons b bs ih =>
    simp only [bytesOfBlocks, List.flatMap_cons, List.length_append, bytesOf_length, List.length_cons] at ih ⊢
    omega

@[simp] theorem bytesOfBlocks_nil : bytesOfBlocks [] = [] := rfl

theorem bytesOfBlocks_cons (b : Block) (bs : List Block) : bytesOfBlocks (b :: bs) = bytesOf b ++ bytesOfBlocks bs :=
  rfl

theorem bytesOfBlocks_append (a b : List Block) : bytesOfBlocks (a ++ b) = bytesOfBlocks a ++ bytesOfBlocks b := by
  simp [bytesOfBlocks]

/-- The blocks of a list of blocks' bytes. -/
@[simp] theorem blocksOf_bytesOfBlocks (bs : List Block) : blocksOf (bytesOfBlocks bs) = bs := by
  induction bs with
  | nil => rfl
  | cons b bs ih =>
    rw [bytesOfBlocks_cons, blocksOf_append (by simp), ih, blocksOf_cons (by
      intro h; simpa using congrArg List.length h), List.drop_of_length_le (by simp)]
    simp

/-- A string of whole blocks is the bytes of its blocks. -/
theorem bytesOfBlocks_blocksOf {bs : Bytes} (h : bs.length % 16 = 0) : bytesOfBlocks (blocksOf bs) = bs := by
  generalize hn : bs.length / 16 = n
  induction n generalizing bs with
  | zero =>
    have : bs = [] := List.length_eq_zero_iff.mp (by omega)
    subst this; rfl
  | succ n ih =>
    have hb : bs ≠ [] := by rintro rfl; simp at hn
    rw [blocksOf_cons hb, bytesOfBlocks_cons, ih (by simp; omega) (by simp; omega), ← blockOf_take,
      bytesOf_blockOf (by simp; omega), List.take_append_drop]

/-- Byte x of a list of blocks' bytes. -/
theorem getElem?_bytesOfBlocks (bs : List Block) (x : Nat) :
    (bytesOfBlocks bs)[x]? = (bs[x / 16]?).map (fun b => blockByte b (x % 16)) := by
  induction bs generalizing x with
  | nil => simp
  | cons b bs ih =>
    rw [bytesOfBlocks_cons]
    by_cases hx : x < 16
    · rw [List.getElem?_append_left (by simpa using hx), getElem?_bytesOf hx, Nat.div_eq_of_lt hx,
        Nat.mod_eq_of_lt hx]
      rfl
    · rw [List.getElem?_append_right (by simpa using hx), bytesOf_length, ih,
        show x / 16 = (x - 16) / 16 + 1 by omega, show x % 16 = (x - 16) % 16 by omega]
      rfl

/-- Block i of a list of blocks' bytes. -/
theorem blockOf_drop_bytesOfBlocks {bs : List Block} {i : Nat} {b : Block} (h : bs[i]? = some b) :
    blockOf ((bytesOfBlocks bs).drop (16 * i)) = b := by
  refine block_ext fun j hj => ?_
  rw [blockByte_blockOf hj, List.getD, List.getElem?_drop, getElem?_bytesOfBlocks,
    show (16 * i + j) / 16 = i by omega, show (16 * i + j) % 16 = j by omega, h]
  rfl

end Sys2Proof.Machine
end

