-- ==== Sys2Proof/Laws/Modes.lean ====
section
/-! SUPPORT. The laws of the two ways a mode runs over its input, block by block (`chain`) and byte by byte
(`streamRun`): lengths, what each output is, and running over a joined input (20_memory.md R55). -/

namespace Sys2Proof.Machine

section
variable (step : Block → Block → Block × Block)

@[simp] theorem chain_nil (v : Block) : chain step v [] = (v, []) := rfl

theorem chain_cons (v b : Block) (bs : List Block) :
    chain step v (b :: bs) =
      ((chain step (step v b).1 bs).1, (step v b).2 :: (chain step (step v b).1 bs).2) := rfl

@[simp] theorem chain_length (v : Block) (bs : List Block) : (chain step v bs).2.length = bs.length := by
  induction bs generalizing v with
  | nil => rfl
  | cons b bs ih => simp [chain_cons, ih]

/-- Running over a joined input is running over its parts in turn (R55). -/
theorem chain_append (v : Block) (as bs : List Block) :
    chain step v (as ++ bs) =
      ((chain step (chain step v as).1 bs).1,
       (chain step v as).2 ++ (chain step (chain step v as).1 bs).2) := by
  induction as generalizing v with
  | nil => rfl
  | cons a as ih => simp [chain_cons, ih]

/-- The running value before block i. -/
def runningValue (v : Block) (bs : List Block) (i : Nat) : Block := (chain step v (bs.take i)).1

@[simp] theorem runningValue_zero (v : Block) (bs : List Block) : runningValue step v bs 0 = v := rfl

theorem runningValue_succ (v : Block) (bs : List Block) {i : Nat} {b : Block} (h : bs[i]? = some b) :
    runningValue step v bs (i + 1) = (step (runningValue step v bs i) b).1 := by
  obtain ⟨hi, rfl⟩ := List.getElem?_eq_some_iff.mp h
  rw [runningValue, List.take_add_one, h, Option.toList, chain_append]
  rfl

theorem chain_fst (v : Block) (bs : List Block) : (chain step v bs).1 = runningValue step v bs bs.length := by
  simp [runningValue]

/-- Output block i is what the step makes of the running value before it and input block i. -/
theorem chain_getElem? (v : Block) (bs : List Block) (i : Nat) :
    (chain step v bs).2[i]? = (bs[i]?).map (fun b => (step (runningValue step v bs i) b).2) := by
  induction bs generalizing v i with
  | nil => simp
  | cons b bs ih =>
    cases i with
    | zero => simp [chain_cons]
    | succ i => simp [chain_cons, ih, runningValue]

end

section
variable (step : StreamCtx → Byte → StreamCtx × Byte)

@[simp] theorem streamRun_nil (c : StreamCtx) : streamRun step c [] = (c, []) := rfl

theorem streamRun_cons (c : StreamCtx) (b : Byte) (bs : Bytes) :
    streamRun step c (b :: bs) =
      ((streamRun step (step c b).1 bs).1, (step c b).2 :: (streamRun step (step c b).1 bs).2) := rfl

@[simp] theorem streamRun_length (c : StreamCtx) (bs : Bytes) : (streamRun step c bs).2.length = bs.length := by
  induction bs generalizing c with
  | nil => rfl
  | cons b bs ih => simp [streamRun_cons, ih]

/-- Running over a joined input is running over its parts in turn (R55). -/
theorem streamRun_append (c : StreamCtx) (as bs : Bytes) :
    streamRun step c (as ++ bs) =
      ((streamRun step (streamRun step c as).1 bs).1,
       (streamRun step c as).2 ++ (streamRun step (streamRun step c as).1 bs).2) := by
  induction as generalizing c with
  | nil => rfl
  | cons a as ih => simp [streamRun_cons, ih]

/-- The running state before byte i. -/
def runningCtx (c : StreamCtx) (bs : Bytes) (i : Nat) : StreamCtx := (streamRun step c (bs.take i)).1

@[simp] theorem runningCtx_zero (c : StreamCtx) (bs : Bytes) : runningCtx step c bs 0 = c := rfl

theorem runningCtx_succ (c : StreamCtx) (bs : Bytes) {i : Nat} {b : Byte} (h : bs[i]? = some b) :
    runningCtx step c bs (i + 1) = (step (runningCtx step c bs i) b).1 := by
  obtain ⟨hi, rfl⟩ := List.getElem?_eq_some_iff.mp h
  rw [runningCtx, List.take_add_one, h, Option.toList, streamRun_append]
  rfl

theorem streamRun_fst (c : StreamCtx) (bs : Bytes) :
    (streamRun step c bs).1 = runningCtx step c bs bs.length := by
  simp [runningCtx]

/-- Output byte i is what the step makes of the running state before it and input byte i. -/
theorem streamRun_getElem? (c : StreamCtx) (bs : Bytes) (i : Nat) :
    (streamRun step c bs).2[i]? = (bs[i]?).map (fun b => (step (runningCtx step c bs i) b).2) := by
  induction bs generalizing c i with
  | nil => simp
  | cons b bs ih =>
    cases i with
    | zero => simp [streamRun_cons]
    | succ i => simp [streamRun_cons, ih, runningCtx]

end

end Sys2Proof.Machine
end

