-- ==== Sys2Proof/Laws/State.lean ====
section
/-! SUPPORT. One lemma per field per state update, each true by definition, so that no proof unfolds an update.
A field an update does not write keeps its value. -/

namespace Sys2Proof.Machine

variable (s : State)

/-! ## Ending a command without error (`State.finish`) -/

@[simp] theorem finish_params (n : Nat) : (s.finish n).params = s.params := rfl
@[simp] theorem finish_srcAddr (n : Nat) : (s.finish n).srcAddr = s.srcAddr := rfl
@[simp] theorem finish_srcLen (n : Nat) : (s.finish n).srcLen = s.srcLen := rfl
@[simp] theorem finish_dstAddr (n : Nat) : (s.finish n).dstAddr = s.dstAddr := rfl
@[simp] theorem finish_dstCap (n : Nat) : (s.finish n).dstCap = s.dstCap := rfl
@[simp] theorem finish_aadAddr (n : Nat) : (s.finish n).aadAddr = s.aadAddr := rfl
@[simp] theorem finish_aadLen (n : Nat) : (s.finish n).aadLen = s.aadLen := rfl
@[simp] theorem finish_ivAddr (n : Nat) : (s.finish n).ivAddr = s.ivAddr := rfl
@[simp] theorem finish_ivLen (n : Nat) : (s.finish n).ivLen = s.ivLen := rfl
@[simp] theorem finish_keyAddr (n : Nat) : (s.finish n).keyAddr = s.keyAddr := rfl
@[simp] theorem finish_keyLen (n : Nat) : (s.finish n).keyLen = s.keyLen := rfl
@[simp] theorem finish_auxAddr (n : Nat) : (s.finish n).auxAddr = s.auxAddr := rfl
@[simp] theorem finish_auxLen (n : Nat) : (s.finish n).auxLen = s.auxLen := rfl
@[simp] theorem finish_cfgTagLen (n : Nat) : (s.finish n).cfgTagLen = s.cfgTagLen := rfl
@[simp] theorem finish_cfgDialect (n : Nat) : (s.finish n).cfgDialect = s.cfgDialect := rfl
@[simp] theorem finish_outLen (n : Nat) : (s.finish n).outLen = BitVec.ofNat 64 n := rfl
@[simp] theorem finish_y (n : Nat) : (s.finish n).y = s.y := rfl
@[simp] theorem finish_err (n : Nat) : (s.finish n).err = none := rfl
@[simp] theorem finish_fault (n : Nat) : (s.finish n).fault = s.fault := rfl
@[simp] theorem finish_ks0 (n : Nat) : (s.finish n).ks0 = s.ks0 := rfl
@[simp] theorem finish_ks1 (n : Nat) : (s.finish n).ks1 = s.ks1 := rfl
@[simp] theorem finish_tblV (n : Nat) : (s.finish n).tblV = s.tblV := rfl
@[simp] theorem finish_tbl (n : Nat) : (s.finish n).tbl = s.tbl := rfl
@[simp] theorem finish_active (n : Nat) : (s.finish n).active = s.active := rfl
@[simp] theorem finish_iv (n : Nat) : (s.finish n).iv = s.iv := rfl
@[simp] theorem finish_ksb (n : Nat) : (s.finish n).ksb = s.ksb := rfl
@[simp] theorem finish_kpos (n : Nat) : (s.finish n).kpos = s.kpos := rfl
@[simp] theorem finish_tagLenL (n : Nat) : (s.finish n).tagLenL = s.tagLenL := rfl
@[simp] theorem finish_nonceLenL (n : Nat) : (s.finish n).nonceLenL = s.nonceLenL := rfl
@[simp] theorem finish_dialL (n : Nat) : (s.finish n).dialL = s.dialL := rfl
@[simp] theorem finish_spos (n : Nat) : (s.finish n).spos = s.spos := rfl
@[simp] theorem finish_mem (n : Nat) : (s.finish n).mem = s.mem := rfl
@[simp] theorem finish_pending (n : Nat) : (s.finish n).pending = s.pending := rfl
@[simp] theorem finish_readData (n : Nat) : (s.finish n).readData = s.readData := rfl

/-! ## Taking an error (`State.raise`) -/

@[simp] theorem raise_params (e : Err) : (s.raise e).params = s.params := rfl
@[simp] theorem raise_srcAddr (e : Err) : (s.raise e).srcAddr = s.srcAddr := rfl
@[simp] theorem raise_srcLen (e : Err) : (s.raise e).srcLen = s.srcLen := rfl
@[simp] theorem raise_dstAddr (e : Err) : (s.raise e).dstAddr = s.dstAddr := rfl
@[simp] theorem raise_dstCap (e : Err) : (s.raise e).dstCap = s.dstCap := rfl
@[simp] theorem raise_aadAddr (e : Err) : (s.raise e).aadAddr = s.aadAddr := rfl
@[simp] theorem raise_aadLen (e : Err) : (s.raise e).aadLen = s.aadLen := rfl
@[simp] theorem raise_ivAddr (e : Err) : (s.raise e).ivAddr = s.ivAddr := rfl
@[simp] theorem raise_ivLen (e : Err) : (s.raise e).ivLen = s.ivLen := rfl
@[simp] theorem raise_keyAddr (e : Err) : (s.raise e).keyAddr = s.keyAddr := rfl
@[simp] theorem raise_keyLen (e : Err) : (s.raise e).keyLen = s.keyLen := rfl
@[simp] theorem raise_auxAddr (e : Err) : (s.raise e).auxAddr = s.auxAddr := rfl
@[simp] theorem raise_auxLen (e : Err) : (s.raise e).auxLen = s.auxLen := rfl
@[simp] theorem raise_cfgTagLen (e : Err) : (s.raise e).cfgTagLen = s.cfgTagLen := rfl
@[simp] theorem raise_cfgDialect (e : Err) : (s.raise e).cfgDialect = s.cfgDialect := rfl
@[simp] theorem raise_outLen (e : Err) : (s.raise e).outLen = 0 := rfl
@[simp] theorem raise_y (e : Err) : (s.raise e).y = s.y := rfl
@[simp] theorem raise_err (e : Err) : (s.raise e).err = some e := rfl
@[simp] theorem raise_fault (e : Err) : (s.raise e).fault = (s.fault || isClassP e) := rfl
@[simp] theorem raise_ks0 (e : Err) : (s.raise e).ks0 = s.ks0 := rfl
@[simp] theorem raise_ks1 (e : Err) : (s.raise e).ks1 = s.ks1 := rfl
@[simp] theorem raise_tblV (e : Err) : (s.raise e).tblV = s.tblV := rfl
@[simp] theorem raise_tbl (e : Err) : (s.raise e).tbl = s.tbl := rfl
@[simp] theorem raise_active (e : Err) : (s.raise e).active = s.active := rfl
@[simp] theorem raise_iv (e : Err) : (s.raise e).iv = s.iv := rfl
@[simp] theorem raise_ksb (e : Err) : (s.raise e).ksb = s.ksb := rfl
@[simp] theorem raise_kpos (e : Err) : (s.raise e).kpos = s.kpos := rfl
@[simp] theorem raise_tagLenL (e : Err) : (s.raise e).tagLenL = s.tagLenL := rfl
@[simp] theorem raise_nonceLenL (e : Err) : (s.raise e).nonceLenL = s.nonceLenL := rfl
@[simp] theorem raise_dialL (e : Err) : (s.raise e).dialL = s.dialL := rfl
@[simp] theorem raise_spos (e : Err) : (s.raise e).spos = s.spos := rfl
@[simp] theorem raise_mem (e : Err) : (s.raise e).mem = s.mem := rfl
@[simp] theorem raise_pending (e : Err) : (s.raise e).pending = s.pending := rfl
@[simp] theorem raise_readData (e : Err) : (s.raise e).readData = s.readData := rfl

/-! ## A memory write (`State.storeBytes`) -/

@[simp] theorem storeBytes_params (a : Nat) (bs : Bytes) : (s.storeBytes a bs).params = s.params := rfl
@[simp] theorem storeBytes_srcAddr (a : Nat) (bs : Bytes) : (s.storeBytes a bs).srcAddr = s.srcAddr := rfl
@[simp] theorem storeBytes_srcLen (a : Nat) (bs : Bytes) : (s.storeBytes a bs).srcLen = s.srcLen := rfl
@[simp] theorem storeBytes_dstAddr (a : Nat) (bs : Bytes) : (s.storeBytes a bs).dstAddr = s.dstAddr := rfl
@[simp] theorem storeBytes_dstCap (a : Nat) (bs : Bytes) : (s.storeBytes a bs).dstCap = s.dstCap := rfl
@[simp] theorem storeBytes_aadAddr (a : Nat) (bs : Bytes) : (s.storeBytes a bs).aadAddr = s.aadAddr := rfl
@[simp] theorem storeBytes_aadLen (a : Nat) (bs : Bytes) : (s.storeBytes a bs).aadLen = s.aadLen := rfl
@[simp] theorem storeBytes_ivAddr (a : Nat) (bs : Bytes) : (s.storeBytes a bs).ivAddr = s.ivAddr := rfl
@[simp] theorem storeBytes_ivLen (a : Nat) (bs : Bytes) : (s.storeBytes a bs).ivLen = s.ivLen := rfl
@[simp] theorem storeBytes_keyAddr (a : Nat) (bs : Bytes) : (s.storeBytes a bs).keyAddr = s.keyAddr := rfl
@[simp] theorem storeBytes_keyLen (a : Nat) (bs : Bytes) : (s.storeBytes a bs).keyLen = s.keyLen := rfl
@[simp] theorem storeBytes_auxAddr (a : Nat) (bs : Bytes) : (s.storeBytes a bs).auxAddr = s.auxAddr := rfl
@[simp] theorem storeBytes_auxLen (a : Nat) (bs : Bytes) : (s.storeBytes a bs).auxLen = s.auxLen := rfl
@[simp] theorem storeBytes_cfgTagLen (a : Nat) (bs : Bytes) : (s.storeBytes a bs).cfgTagLen = s.cfgTagLen := rfl
@[simp] theorem storeBytes_cfgDialect (a : Nat) (bs : Bytes) : (s.storeBytes a bs).cfgDialect = s.cfgDialect := rfl
@[simp] theorem storeBytes_outLen (a : Nat) (bs : Bytes) : (s.storeBytes a bs).outLen = s.outLen := rfl
@[simp] theorem storeBytes_y (a : Nat) (bs : Bytes) : (s.storeBytes a bs).y = s.y := rfl
@[simp] theorem storeBytes_err (a : Nat) (bs : Bytes) : (s.storeBytes a bs).err = s.err := rfl
@[simp] theorem storeBytes_fault (a : Nat) (bs : Bytes) : (s.storeBytes a bs).fault = s.fault := rfl
@[simp] theorem storeBytes_ks0 (a : Nat) (bs : Bytes) : (s.storeBytes a bs).ks0 = s.ks0 := rfl
@[simp] theorem storeBytes_ks1 (a : Nat) (bs : Bytes) : (s.storeBytes a bs).ks1 = s.ks1 := rfl
@[simp] theorem storeBytes_tblV (a : Nat) (bs : Bytes) : (s.storeBytes a bs).tblV = s.tblV := rfl
@[simp] theorem storeBytes_tbl (a : Nat) (bs : Bytes) : (s.storeBytes a bs).tbl = s.tbl := rfl
@[simp] theorem storeBytes_active (a : Nat) (bs : Bytes) : (s.storeBytes a bs).active = s.active := rfl
@[simp] theorem storeBytes_iv (a : Nat) (bs : Bytes) : (s.storeBytes a bs).iv = s.iv := rfl
@[simp] theorem storeBytes_ksb (a : Nat) (bs : Bytes) : (s.storeBytes a bs).ksb = s.ksb := rfl
@[simp] theorem storeBytes_kpos (a : Nat) (bs : Bytes) : (s.storeBytes a bs).kpos = s.kpos := rfl
@[simp] theorem storeBytes_tagLenL (a : Nat) (bs : Bytes) : (s.storeBytes a bs).tagLenL = s.tagLenL := rfl
@[simp] theorem storeBytes_nonceLenL (a : Nat) (bs : Bytes) : (s.storeBytes a bs).nonceLenL = s.nonceLenL := rfl
@[simp] theorem storeBytes_dialL (a : Nat) (bs : Bytes) : (s.storeBytes a bs).dialL = s.dialL := rfl
@[simp] theorem storeBytes_spos (a : Nat) (bs : Bytes) : (s.storeBytes a bs).spos = s.spos := rfl
@[simp] theorem storeBytes_mem (a : Nat) (bs : Bytes) : (s.storeBytes a bs).mem = s.mem.writeBytes a bs := rfl
@[simp] theorem storeBytes_pending (a : Nat) (bs : Bytes) : (s.storeBytes a bs).pending = s.pending := rfl
@[simp] theorem storeBytes_readData (a : Nat) (bs : Bytes) : (s.storeBytes a bs).readData = s.readData := rfl

/-! ## Delivering a result (`State.deliver`) -/

@[simp] theorem deliver_params (out : Bytes) : (s.deliver out).params = s.params := rfl
@[simp] theorem deliver_srcAddr (out : Bytes) : (s.deliver out).srcAddr = s.srcAddr := rfl
@[simp] theorem deliver_srcLen (out : Bytes) : (s.deliver out).srcLen = s.srcLen := rfl
@[simp] theorem deliver_dstAddr (out : Bytes) : (s.deliver out).dstAddr = s.dstAddr := rfl
@[simp] theorem deliver_dstCap (out : Bytes) : (s.deliver out).dstCap = s.dstCap := rfl
@[simp] theorem deliver_aadAddr (out : Bytes) : (s.deliver out).aadAddr = s.aadAddr := rfl
@[simp] theorem deliver_aadLen (out : Bytes) : (s.deliver out).aadLen = s.aadLen := rfl
@[simp] theorem deliver_ivAddr (out : Bytes) : (s.deliver out).ivAddr = s.ivAddr := rfl
@[simp] theorem deliver_ivLen (out : Bytes) : (s.deliver out).ivLen = s.ivLen := rfl
@[simp] theorem deliver_keyAddr (out : Bytes) : (s.deliver out).keyAddr = s.keyAddr := rfl
@[simp] theorem deliver_keyLen (out : Bytes) : (s.deliver out).keyLen = s.keyLen := rfl
@[simp] theorem deliver_auxAddr (out : Bytes) : (s.deliver out).auxAddr = s.auxAddr := rfl
@[simp] theorem deliver_auxLen (out : Bytes) : (s.deliver out).auxLen = s.auxLen := rfl
@[simp] theorem deliver_cfgTagLen (out : Bytes) : (s.deliver out).cfgTagLen = s.cfgTagLen := rfl
@[simp] theorem deliver_cfgDialect (out : Bytes) : (s.deliver out).cfgDialect = s.cfgDialect := rfl
@[simp] theorem deliver_outLen (out : Bytes) : (s.deliver out).outLen = BitVec.ofNat 64 out.length := rfl
@[simp] theorem deliver_y (out : Bytes) : (s.deliver out).y = s.y := rfl
@[simp] theorem deliver_err (out : Bytes) : (s.deliver out).err = none := rfl
@[simp] theorem deliver_fault (out : Bytes) : (s.deliver out).fault = s.fault := rfl
@[simp] theorem deliver_ks0 (out : Bytes) : (s.deliver out).ks0 = s.ks0 := rfl
@[simp] theorem deliver_ks1 (out : Bytes) : (s.deliver out).ks1 = s.ks1 := rfl
@[simp] theorem deliver_tblV (out : Bytes) : (s.deliver out).tblV = s.tblV := rfl
@[simp] theorem deliver_tbl (out : Bytes) : (s.deliver out).tbl = s.tbl := rfl
@[simp] theorem deliver_active (out : Bytes) : (s.deliver out).active = s.active := rfl
@[simp] theorem deliver_iv (out : Bytes) : (s.deliver out).iv = s.iv := rfl
@[simp] theorem deliver_ksb (out : Bytes) : (s.deliver out).ksb = s.ksb := rfl
@[simp] theorem deliver_kpos (out : Bytes) : (s.deliver out).kpos = s.kpos := rfl
@[simp] theorem deliver_tagLenL (out : Bytes) : (s.deliver out).tagLenL = s.tagLenL := rfl
@[simp] theorem deliver_nonceLenL (out : Bytes) : (s.deliver out).nonceLenL = s.nonceLenL := rfl
@[simp] theorem deliver_dialL (out : Bytes) : (s.deliver out).dialL = s.dialL := rfl
@[simp] theorem deliver_spos (out : Bytes) : (s.deliver out).spos = s.spos := rfl
@[simp] theorem deliver_mem (out : Bytes) : (s.deliver out).mem = s.mem.writeBytes (s.addr .dst) out := rfl
@[simp] theorem deliver_pending (out : Bytes) : (s.deliver out).pending = s.pending := rfl
@[simp] theorem deliver_readData (out : Bytes) : (s.deliver out).readData = s.readData := rfl

/-! ## Authentication failure (`State.authFailure`) -/

@[simp] theorem authFailure_params (n : Nat) : (s.authFailure n).params = s.params := rfl
@[simp] theorem authFailure_srcAddr (n : Nat) : (s.authFailure n).srcAddr = s.srcAddr := rfl
@[simp] theorem authFailure_srcLen (n : Nat) : (s.authFailure n).srcLen = s.srcLen := rfl
@[simp] theorem authFailure_dstAddr (n : Nat) : (s.authFailure n).dstAddr = s.dstAddr := rfl
@[simp] theorem authFailure_dstCap (n : Nat) : (s.authFailure n).dstCap = s.dstCap := rfl
@[simp] theorem authFailure_aadAddr (n : Nat) : (s.authFailure n).aadAddr = s.aadAddr := rfl
@[simp] theorem authFailure_aadLen (n : Nat) : (s.authFailure n).aadLen = s.aadLen := rfl
@[simp] theorem authFailure_ivAddr (n : Nat) : (s.authFailure n).ivAddr = s.ivAddr := rfl
@[simp] theorem authFailure_ivLen (n : Nat) : (s.authFailure n).ivLen = s.ivLen := rfl
@[simp] theorem authFailure_keyAddr (n : Nat) : (s.authFailure n).keyAddr = s.keyAddr := rfl
@[simp] theorem authFailure_keyLen (n : Nat) : (s.authFailure n).keyLen = s.keyLen := rfl
@[simp] theorem authFailure_auxAddr (n : Nat) : (s.authFailure n).auxAddr = s.auxAddr := rfl
@[simp] theorem authFailure_auxLen (n : Nat) : (s.authFailure n).auxLen = s.auxLen := rfl
@[simp] theorem authFailure_cfgTagLen (n : Nat) : (s.authFailure n).cfgTagLen = s.cfgTagLen := rfl
@[simp] theorem authFailure_cfgDialect (n : Nat) : (s.authFailure n).cfgDialect = s.cfgDialect := rfl
@[simp] theorem authFailure_outLen (n : Nat) : (s.authFailure n).outLen = 0 := rfl
@[simp] theorem authFailure_y (n : Nat) : (s.authFailure n).y = s.y := rfl
@[simp] theorem authFailure_err (n : Nat) : (s.authFailure n).err = some .auth := rfl
@[simp] theorem authFailure_fault (n : Nat) : (s.authFailure n).fault = (s.fault || isClassP .auth) := rfl
@[simp] theorem authFailure_ks0 (n : Nat) : (s.authFailure n).ks0 = s.ks0 := rfl
@[simp] theorem authFailure_ks1 (n : Nat) : (s.authFailure n).ks1 = s.ks1 := rfl
@[simp] theorem authFailure_tblV (n : Nat) : (s.authFailure n).tblV = s.tblV := rfl
@[simp] theorem authFailure_tbl (n : Nat) : (s.authFailure n).tbl = s.tbl := rfl
@[simp] theorem authFailure_active (n : Nat) : (s.authFailure n).active = s.active := rfl
@[simp] theorem authFailure_iv (n : Nat) : (s.authFailure n).iv = s.iv := rfl
@[simp] theorem authFailure_ksb (n : Nat) : (s.authFailure n).ksb = s.ksb := rfl
@[simp] theorem authFailure_kpos (n : Nat) : (s.authFailure n).kpos = s.kpos := rfl
@[simp] theorem authFailure_tagLenL (n : Nat) : (s.authFailure n).tagLenL = s.tagLenL := rfl
@[simp] theorem authFailure_nonceLenL (n : Nat) : (s.authFailure n).nonceLenL = s.nonceLenL := rfl
@[simp] theorem authFailure_dialL (n : Nat) : (s.authFailure n).dialL = s.dialL := rfl
@[simp] theorem authFailure_spos (n : Nat) : (s.authFailure n).spos = s.spos := rfl
@[simp] theorem authFailure_mem (n : Nat) : (s.authFailure n).mem = s.mem.writeBytes (s.addr .dst) (zeros n) := rfl
@[simp] theorem authFailure_pending (n : Nat) : (s.authFailure n).pending = s.pending := rfl
@[simp] theorem authFailure_readData (n : Nat) : (s.authFailure n).readData = s.readData := rfl

/-! ## Unbind (`State.unbind`) -/

@[simp] theorem unbind_params : s.unbind.params = s.params := rfl
@[simp] theorem unbind_srcAddr : s.unbind.srcAddr = s.srcAddr := rfl
@[simp] theorem unbind_srcLen : s.unbind.srcLen = s.srcLen := rfl
@[simp] theorem unbind_dstAddr : s.unbind.dstAddr = s.dstAddr := rfl
@[simp] theorem unbind_dstCap : s.unbind.dstCap = s.dstCap := rfl
@[simp] theorem unbind_aadAddr : s.unbind.aadAddr = s.aadAddr := rfl
@[simp] theorem unbind_aadLen : s.unbind.aadLen = s.aadLen := rfl
@[simp] theorem unbind_ivAddr : s.unbind.ivAddr = s.ivAddr := rfl
@[simp] theorem unbind_ivLen : s.unbind.ivLen = s.ivLen := rfl
@[simp] theorem unbind_keyAddr : s.unbind.keyAddr = s.keyAddr := rfl
@[simp] theorem unbind_keyLen : s.unbind.keyLen = s.keyLen := rfl
@[simp] theorem unbind_auxAddr : s.unbind.auxAddr = s.auxAddr := rfl
@[simp] theorem unbind_auxLen : s.unbind.auxLen = s.auxLen := rfl
@[simp] theorem unbind_cfgTagLen : s.unbind.cfgTagLen = s.cfgTagLen := rfl
@[simp] theorem unbind_cfgDialect : s.unbind.cfgDialect = s.cfgDialect := rfl
@[simp] theorem unbind_outLen : s.unbind.outLen = s.outLen := rfl
@[simp] theorem unbind_y : s.unbind.y = s.y := rfl
@[simp] theorem unbind_err : s.unbind.err = s.err := rfl
@[simp] theorem unbind_fault : s.unbind.fault = s.fault := rfl
@[simp] theorem unbind_ks0 : s.unbind.ks0 = s.ks0 := rfl
@[simp] theorem unbind_ks1 : s.unbind.ks1 = s.ks1 := rfl
@[simp] theorem unbind_tblV : s.unbind.tblV = s.tblV := rfl
@[simp] theorem unbind_tbl : s.unbind.tbl = s.tbl := rfl
@[simp] theorem unbind_active : s.unbind.active = none := rfl
@[simp] theorem unbind_iv : s.unbind.iv = 0 := rfl
@[simp] theorem unbind_ksb : s.unbind.ksb = 0 := rfl
@[simp] theorem unbind_kpos : s.unbind.kpos = 16 := rfl
@[simp] theorem unbind_tagLenL : s.unbind.tagLenL = 0 := rfl
@[simp] theorem unbind_nonceLenL : s.unbind.nonceLenL = 0 := rfl
@[simp] theorem unbind_dialL : s.unbind.dialL = 0 := rfl
@[simp] theorem unbind_spos : s.unbind.spos = 0 := rfl
@[simp] theorem unbind_mem : s.unbind.mem = s.mem := rfl
@[simp] theorem unbind_pending : s.unbind.pending = s.pending := rfl
@[simp] theorem unbind_readData : s.unbind.readData = s.readData := rfl

/-! ## Binding a unit (`State.bind`) -/

@[simp] theorem bind_params (u : ModeUnit) : (s.bind u).params = s.params := rfl
@[simp] theorem bind_srcAddr (u : ModeUnit) : (s.bind u).srcAddr = s.srcAddr := rfl
@[simp] theorem bind_srcLen (u : ModeUnit) : (s.bind u).srcLen = s.srcLen := rfl
@[simp] theorem bind_dstAddr (u : ModeUnit) : (s.bind u).dstAddr = s.dstAddr := rfl
@[simp] theorem bind_dstCap (u : ModeUnit) : (s.bind u).dstCap = s.dstCap := rfl
@[simp] theorem bind_aadAddr (u : ModeUnit) : (s.bind u).aadAddr = s.aadAddr := rfl
@[simp] theorem bind_aadLen (u : ModeUnit) : (s.bind u).aadLen = s.aadLen := rfl
@[simp] theorem bind_ivAddr (u : ModeUnit) : (s.bind u).ivAddr = s.ivAddr := rfl
@[simp] theorem bind_ivLen (u : ModeUnit) : (s.bind u).ivLen = s.ivLen := rfl
@[simp] theorem bind_keyAddr (u : ModeUnit) : (s.bind u).keyAddr = s.keyAddr := rfl
@[simp] theorem bind_keyLen (u : ModeUnit) : (s.bind u).keyLen = s.keyLen := rfl
@[simp] theorem bind_auxAddr (u : ModeUnit) : (s.bind u).auxAddr = s.auxAddr := rfl
@[simp] theorem bind_auxLen (u : ModeUnit) : (s.bind u).auxLen = s.auxLen := rfl
@[simp] theorem bind_cfgTagLen (u : ModeUnit) : (s.bind u).cfgTagLen = s.cfgTagLen := rfl
@[simp] theorem bind_cfgDialect (u : ModeUnit) : (s.bind u).cfgDialect = s.cfgDialect := rfl
@[simp] theorem bind_outLen (u : ModeUnit) : (s.bind u).outLen = s.outLen := rfl
@[simp] theorem bind_y (u : ModeUnit) : (s.bind u).y = s.y := rfl
@[simp] theorem bind_err (u : ModeUnit) : (s.bind u).err = s.err := rfl
@[simp] theorem bind_fault (u : ModeUnit) : (s.bind u).fault = s.fault := rfl
@[simp] theorem bind_ks0 (u : ModeUnit) : (s.bind u).ks0 = s.ks0 := rfl
@[simp] theorem bind_ks1 (u : ModeUnit) : (s.bind u).ks1 = s.ks1 := rfl
@[simp] theorem bind_tblV (u : ModeUnit) : (s.bind u).tblV = s.tblV := rfl
@[simp] theorem bind_tbl (u : ModeUnit) : (s.bind u).tbl = s.tbl := rfl
@[simp] theorem bind_active (u : ModeUnit) : (s.bind u).active = some u := rfl
@[simp] theorem bind_iv (u : ModeUnit) : (s.bind u).iv = 0 := rfl
@[simp] theorem bind_ksb (u : ModeUnit) : (s.bind u).ksb = 0 := rfl
@[simp] theorem bind_kpos (u : ModeUnit) : (s.bind u).kpos = 16 := rfl
@[simp] theorem bind_tagLenL (u : ModeUnit) : (s.bind u).tagLenL = 0 := rfl
@[simp] theorem bind_nonceLenL (u : ModeUnit) : (s.bind u).nonceLenL = 0 := rfl
@[simp] theorem bind_dialL (u : ModeUnit) : (s.bind u).dialL = 0 := rfl
@[simp] theorem bind_spos (u : ModeUnit) : (s.bind u).spos = 0 := rfl
@[simp] theorem bind_mem (u : ModeUnit) : (s.bind u).mem = s.mem := rfl
@[simp] theorem bind_pending (u : ModeUnit) : (s.bind u).pending = s.pending := rfl
@[simp] theorem bind_readData (u : ModeUnit) : (s.bind u).readData = s.readData := rfl

/-! ## Loading the product table (`State.loadTable`) -/

@[simp] theorem loadTable_params (h : Block) : (s.loadTable h).params = s.params := rfl
@[simp] theorem loadTable_srcAddr (h : Block) : (s.loadTable h).srcAddr = s.srcAddr := rfl
@[simp] theorem loadTable_srcLen (h : Block) : (s.loadTable h).srcLen = s.srcLen := rfl
@[simp] theorem loadTable_dstAddr (h : Block) : (s.loadTable h).dstAddr = s.dstAddr := rfl
@[simp] theorem loadTable_dstCap (h : Block) : (s.loadTable h).dstCap = s.dstCap := rfl
@[simp] theorem loadTable_aadAddr (h : Block) : (s.loadTable h).aadAddr = s.aadAddr := rfl
@[simp] theorem loadTable_aadLen (h : Block) : (s.loadTable h).aadLen = s.aadLen := rfl
@[simp] theorem loadTable_ivAddr (h : Block) : (s.loadTable h).ivAddr = s.ivAddr := rfl
@[simp] theorem loadTable_ivLen (h : Block) : (s.loadTable h).ivLen = s.ivLen := rfl
@[simp] theorem loadTable_keyAddr (h : Block) : (s.loadTable h).keyAddr = s.keyAddr := rfl
@[simp] theorem loadTable_keyLen (h : Block) : (s.loadTable h).keyLen = s.keyLen := rfl
@[simp] theorem loadTable_auxAddr (h : Block) : (s.loadTable h).auxAddr = s.auxAddr := rfl
@[simp] theorem loadTable_auxLen (h : Block) : (s.loadTable h).auxLen = s.auxLen := rfl
@[simp] theorem loadTable_cfgTagLen (h : Block) : (s.loadTable h).cfgTagLen = s.cfgTagLen := rfl
@[simp] theorem loadTable_cfgDialect (h : Block) : (s.loadTable h).cfgDialect = s.cfgDialect := rfl
@[simp] theorem loadTable_outLen (h : Block) : (s.loadTable h).outLen = s.outLen := rfl
@[simp] theorem loadTable_y (h : Block) : (s.loadTable h).y = s.y := rfl
@[simp] theorem loadTable_err (h : Block) : (s.loadTable h).err = s.err := rfl
@[simp] theorem loadTable_fault (h : Block) : (s.loadTable h).fault = s.fault := rfl
@[simp] theorem loadTable_ks0 (h : Block) : (s.loadTable h).ks0 = s.ks0 := rfl
@[simp] theorem loadTable_ks1 (h : Block) : (s.loadTable h).ks1 = s.ks1 := rfl
@[simp] theorem loadTable_tblV (h : Block) : (s.loadTable h).tblV = true := rfl
@[simp] theorem loadTable_tbl (h : Block) : (s.loadTable h).tbl = tableBuild h := rfl
@[simp] theorem loadTable_active (h : Block) : (s.loadTable h).active = s.active := rfl
@[simp] theorem loadTable_iv (h : Block) : (s.loadTable h).iv = s.iv := rfl
@[simp] theorem loadTable_ksb (h : Block) : (s.loadTable h).ksb = s.ksb := rfl
@[simp] theorem loadTable_kpos (h : Block) : (s.loadTable h).kpos = s.kpos := rfl
@[simp] theorem loadTable_tagLenL (h : Block) : (s.loadTable h).tagLenL = s.tagLenL := rfl
@[simp] theorem loadTable_nonceLenL (h : Block) : (s.loadTable h).nonceLenL = s.nonceLenL := rfl
@[simp] theorem loadTable_dialL (h : Block) : (s.loadTable h).dialL = s.dialL := rfl
@[simp] theorem loadTable_spos (h : Block) : (s.loadTable h).spos = s.spos := rfl
@[simp] theorem loadTable_mem (h : Block) : (s.loadTable h).mem = s.mem := rfl
@[simp] theorem loadTable_pending (h : Block) : (s.loadTable h).pending = s.pending := rfl
@[simp] theorem loadTable_readData (h : Block) : (s.loadTable h).readData = s.readData := rfl

/-! ## Zeroizing (`State.zeroize`) -/

@[simp] theorem zeroize_params : s.zeroize.params = s.params := rfl
@[simp] theorem zeroize_srcAddr : s.zeroize.srcAddr = s.srcAddr := rfl
@[simp] theorem zeroize_srcLen : s.zeroize.srcLen = s.srcLen := rfl
@[simp] theorem zeroize_dstAddr : s.zeroize.dstAddr = s.dstAddr := rfl
@[simp] theorem zeroize_dstCap : s.zeroize.dstCap = s.dstCap := rfl
@[simp] theorem zeroize_aadAddr : s.zeroize.aadAddr = s.aadAddr := rfl
@[simp] theorem zeroize_aadLen : s.zeroize.aadLen = s.aadLen := rfl
@[simp] theorem zeroize_ivAddr : s.zeroize.ivAddr = s.ivAddr := rfl
@[simp] theorem zeroize_ivLen : s.zeroize.ivLen = s.ivLen := rfl
@[simp] theorem zeroize_keyAddr : s.zeroize.keyAddr = s.keyAddr := rfl
@[simp] theorem zeroize_keyLen : s.zeroize.keyLen = s.keyLen := rfl
@[simp] theorem zeroize_auxAddr : s.zeroize.auxAddr = s.auxAddr := rfl
@[simp] theorem zeroize_auxLen : s.zeroize.auxLen = s.auxLen := rfl
@[simp] theorem zeroize_cfgTagLen : s.zeroize.cfgTagLen = s.cfgTagLen := rfl
@[simp] theorem zeroize_cfgDialect : s.zeroize.cfgDialect = s.cfgDialect := rfl
@[simp] theorem zeroize_outLen : s.zeroize.outLen = s.outLen := rfl
@[simp] theorem zeroize_y : s.zeroize.y = Elem.zero := rfl
@[simp] theorem zeroize_err : s.zeroize.err = s.err := rfl
@[simp] theorem zeroize_fault : s.zeroize.fault = s.fault := rfl
@[simp] theorem zeroize_ks0 : s.zeroize.ks0 = KeySchedule.empty := rfl
@[simp] theorem zeroize_ks1 : s.zeroize.ks1 = KeySchedule.empty := rfl
@[simp] theorem zeroize_tblV : s.zeroize.tblV = false := rfl
@[simp] theorem zeroize_tbl : s.zeroize.tbl = List.replicate 16 Elem.zero := rfl
@[simp] theorem zeroize_active : s.zeroize.active = none := rfl
@[simp] theorem zeroize_iv : s.zeroize.iv = 0 := rfl
@[simp] theorem zeroize_ksb : s.zeroize.ksb = 0 := rfl
@[simp] theorem zeroize_kpos : s.zeroize.kpos = 16 := rfl
@[simp] theorem zeroize_tagLenL : s.zeroize.tagLenL = 0 := rfl
@[simp] theorem zeroize_nonceLenL : s.zeroize.nonceLenL = 0 := rfl
@[simp] theorem zeroize_dialL : s.zeroize.dialL = 0 := rfl
@[simp] theorem zeroize_spos : s.zeroize.spos = 0 := rfl
@[simp] theorem zeroize_mem : s.zeroize.mem = s.mem := rfl
@[simp] theorem zeroize_pending : s.zeroize.pending = s.pending := rfl
@[simp] theorem zeroize_readData : s.zeroize.readData = s.readData := rfl

/-! ## Replacing the running stream state (`State.withStreamCtx`) -/

@[simp] theorem withStreamCtx_params (c : StreamCtx) : (s.withStreamCtx c).params = s.params := rfl
@[simp] theorem withStreamCtx_srcAddr (c : StreamCtx) : (s.withStreamCtx c).srcAddr = s.srcAddr := rfl
@[simp] theorem withStreamCtx_srcLen (c : StreamCtx) : (s.withStreamCtx c).srcLen = s.srcLen := rfl
@[simp] theorem withStreamCtx_dstAddr (c : StreamCtx) : (s.withStreamCtx c).dstAddr = s.dstAddr := rfl
@[simp] theorem withStreamCtx_dstCap (c : StreamCtx) : (s.withStreamCtx c).dstCap = s.dstCap := rfl
@[simp] theorem withStreamCtx_aadAddr (c : StreamCtx) : (s.withStreamCtx c).aadAddr = s.aadAddr := rfl
@[simp] theorem withStreamCtx_aadLen (c : StreamCtx) : (s.withStreamCtx c).aadLen = s.aadLen := rfl
@[simp] theorem withStreamCtx_ivAddr (c : StreamCtx) : (s.withStreamCtx c).ivAddr = s.ivAddr := rfl
@[simp] theorem withStreamCtx_ivLen (c : StreamCtx) : (s.withStreamCtx c).ivLen = s.ivLen := rfl
@[simp] theorem withStreamCtx_keyAddr (c : StreamCtx) : (s.withStreamCtx c).keyAddr = s.keyAddr := rfl
@[simp] theorem withStreamCtx_keyLen (c : StreamCtx) : (s.withStreamCtx c).keyLen = s.keyLen := rfl
@[simp] theorem withStreamCtx_auxAddr (c : StreamCtx) : (s.withStreamCtx c).auxAddr = s.auxAddr := rfl
@[simp] theorem withStreamCtx_auxLen (c : StreamCtx) : (s.withStreamCtx c).auxLen = s.auxLen := rfl
@[simp] theorem withStreamCtx_cfgTagLen (c : StreamCtx) : (s.withStreamCtx c).cfgTagLen = s.cfgTagLen := rfl
@[simp] theorem withStreamCtx_cfgDialect (c : StreamCtx) : (s.withStreamCtx c).cfgDialect = s.cfgDialect := rfl
@[simp] theorem withStreamCtx_outLen (c : StreamCtx) : (s.withStreamCtx c).outLen = s.outLen := rfl
@[simp] theorem withStreamCtx_y (c : StreamCtx) : (s.withStreamCtx c).y = s.y := rfl
@[simp] theorem withStreamCtx_err (c : StreamCtx) : (s.withStreamCtx c).err = s.err := rfl
@[simp] theorem withStreamCtx_fault (c : StreamCtx) : (s.withStreamCtx c).fault = s.fault := rfl
@[simp] theorem withStreamCtx_ks0 (c : StreamCtx) : (s.withStreamCtx c).ks0 = s.ks0 := rfl
@[simp] theorem withStreamCtx_ks1 (c : StreamCtx) : (s.withStreamCtx c).ks1 = s.ks1 := rfl
@[simp] theorem withStreamCtx_tblV (c : StreamCtx) : (s.withStreamCtx c).tblV = s.tblV := rfl
@[simp] theorem withStreamCtx_tbl (c : StreamCtx) : (s.withStreamCtx c).tbl = s.tbl := rfl
@[simp] theorem withStreamCtx_active (c : StreamCtx) : (s.withStreamCtx c).active = s.active := rfl
@[simp] theorem withStreamCtx_iv (c : StreamCtx) : (s.withStreamCtx c).iv = c.iv := rfl
@[simp] theorem withStreamCtx_ksb (c : StreamCtx) : (s.withStreamCtx c).ksb = c.ksb := rfl
@[simp] theorem withStreamCtx_kpos (c : StreamCtx) : (s.withStreamCtx c).kpos = c.kpos := rfl
@[simp] theorem withStreamCtx_tagLenL (c : StreamCtx) : (s.withStreamCtx c).tagLenL = s.tagLenL := rfl
@[simp] theorem withStreamCtx_nonceLenL (c : StreamCtx) : (s.withStreamCtx c).nonceLenL = s.nonceLenL := rfl
@[simp] theorem withStreamCtx_dialL (c : StreamCtx) : (s.withStreamCtx c).dialL = s.dialL := rfl
@[simp] theorem withStreamCtx_spos (c : StreamCtx) : (s.withStreamCtx c).spos = s.spos := rfl
@[simp] theorem withStreamCtx_mem (c : StreamCtx) : (s.withStreamCtx c).mem = s.mem := rfl
@[simp] theorem withStreamCtx_pending (c : StreamCtx) : (s.withStreamCtx c).pending = s.pending := rfl
@[simp] theorem withStreamCtx_readData (c : StreamCtx) : (s.withStreamCtx c).readData = s.readData := rfl

/-! ## Taking keystream (`State.afterTake`) -/

@[simp] theorem afterTake_params (k : Nat) : (s.afterTake k).params = s.params := rfl
@[simp] theorem afterTake_srcAddr (k : Nat) : (s.afterTake k).srcAddr = s.srcAddr := rfl
@[simp] theorem afterTake_srcLen (k : Nat) : (s.afterTake k).srcLen = s.srcLen := rfl
@[simp] theorem afterTake_dstAddr (k : Nat) : (s.afterTake k).dstAddr = s.dstAddr := rfl
@[simp] theorem afterTake_dstCap (k : Nat) : (s.afterTake k).dstCap = s.dstCap := rfl
@[simp] theorem afterTake_aadAddr (k : Nat) : (s.afterTake k).aadAddr = s.aadAddr := rfl
@[simp] theorem afterTake_aadLen (k : Nat) : (s.afterTake k).aadLen = s.aadLen := rfl
@[simp] theorem afterTake_ivAddr (k : Nat) : (s.afterTake k).ivAddr = s.ivAddr := rfl
@[simp] theorem afterTake_ivLen (k : Nat) : (s.afterTake k).ivLen = s.ivLen := rfl
@[simp] theorem afterTake_keyAddr (k : Nat) : (s.afterTake k).keyAddr = s.keyAddr := rfl
@[simp] theorem afterTake_keyLen (k : Nat) : (s.afterTake k).keyLen = s.keyLen := rfl
@[simp] theorem afterTake_auxAddr (k : Nat) : (s.afterTake k).auxAddr = s.auxAddr := rfl
@[simp] theorem afterTake_auxLen (k : Nat) : (s.afterTake k).auxLen = s.auxLen := rfl
@[simp] theorem afterTake_cfgTagLen (k : Nat) : (s.afterTake k).cfgTagLen = s.cfgTagLen := rfl
@[simp] theorem afterTake_cfgDialect (k : Nat) : (s.afterTake k).cfgDialect = s.cfgDialect := rfl
@[simp] theorem afterTake_outLen (k : Nat) : (s.afterTake k).outLen = s.outLen := rfl
@[simp] theorem afterTake_y (k : Nat) : (s.afterTake k).y = s.y := rfl
@[simp] theorem afterTake_err (k : Nat) : (s.afterTake k).err = s.err := rfl
@[simp] theorem afterTake_fault (k : Nat) : (s.afterTake k).fault = s.fault := rfl
@[simp] theorem afterTake_ks0 (k : Nat) : (s.afterTake k).ks0 = s.ks0 := rfl
@[simp] theorem afterTake_ks1 (k : Nat) : (s.afterTake k).ks1 = s.ks1 := rfl
@[simp] theorem afterTake_tblV (k : Nat) : (s.afterTake k).tblV = s.tblV := rfl
@[simp] theorem afterTake_tbl (k : Nat) : (s.afterTake k).tbl = s.tbl := rfl
@[simp] theorem afterTake_active (k : Nat) : (s.afterTake k).active = s.active := rfl
@[simp] theorem afterTake_iv (k : Nat) : (s.afterTake k).iv = s.iv := rfl
@[simp] theorem afterTake_ksb (k : Nat) : (s.afterTake k).ksb = s.ksb := rfl
@[simp] theorem afterTake_kpos (k : Nat) : (s.afterTake k).kpos = s.kpos := rfl
@[simp] theorem afterTake_tagLenL (k : Nat) : (s.afterTake k).tagLenL = s.tagLenL := rfl
@[simp] theorem afterTake_nonceLenL (k : Nat) : (s.afterTake k).nonceLenL = s.nonceLenL := rfl
@[simp] theorem afterTake_dialL (k : Nat) : (s.afterTake k).dialL = s.dialL := rfl
@[simp] theorem afterTake_spos (k : Nat) : (s.afterTake k).spos = s.spos + BitVec.ofNat 64 k := rfl
@[simp] theorem afterTake_mem (k : Nat) : (s.afterTake k).mem = s.mem := rfl
@[simp] theorem afterTake_pending (k : Nat) : (s.afterTake k).pending = s.pending := rfl
@[simp] theorem afterTake_readData (k : Nat) : (s.afterTake k).readData = s.readData := rfl

/-! ## Reset (`State.resetEvent`) -/

@[simp] theorem resetEvent_params : s.resetEvent.params = s.params := rfl
@[simp] theorem resetEvent_srcAddr : s.resetEvent.srcAddr = State.reset.srcAddr := rfl
@[simp] theorem resetEvent_srcLen : s.resetEvent.srcLen = State.reset.srcLen := rfl
@[simp] theorem resetEvent_dstAddr : s.resetEvent.dstAddr = State.reset.dstAddr := rfl
@[simp] theorem resetEvent_dstCap : s.resetEvent.dstCap = State.reset.dstCap := rfl
@[simp] theorem resetEvent_aadAddr : s.resetEvent.aadAddr = State.reset.aadAddr := rfl
@[simp] theorem resetEvent_aadLen : s.resetEvent.aadLen = State.reset.aadLen := rfl
@[simp] theorem resetEvent_ivAddr : s.resetEvent.ivAddr = State.reset.ivAddr := rfl
@[simp] theorem resetEvent_ivLen : s.resetEvent.ivLen = State.reset.ivLen := rfl
@[simp] theorem resetEvent_keyAddr : s.resetEvent.keyAddr = State.reset.keyAddr := rfl
@[simp] theorem resetEvent_keyLen : s.resetEvent.keyLen = State.reset.keyLen := rfl
@[simp] theorem resetEvent_auxAddr : s.resetEvent.auxAddr = State.reset.auxAddr := rfl
@[simp] theorem resetEvent_auxLen : s.resetEvent.auxLen = State.reset.auxLen := rfl
@[simp] theorem resetEvent_cfgTagLen : s.resetEvent.cfgTagLen = State.reset.cfgTagLen := rfl
@[simp] theorem resetEvent_cfgDialect : s.resetEvent.cfgDialect = State.reset.cfgDialect := rfl
@[simp] theorem resetEvent_outLen : s.resetEvent.outLen = State.reset.outLen := rfl
@[simp] theorem resetEvent_y : s.resetEvent.y = State.reset.y := rfl
@[simp] theorem resetEvent_err : s.resetEvent.err = State.reset.err := rfl
@[simp] theorem resetEvent_fault : s.resetEvent.fault = State.reset.fault := rfl
@[simp] theorem resetEvent_ks0 : s.resetEvent.ks0 = State.reset.ks0 := rfl
@[simp] theorem resetEvent_ks1 : s.resetEvent.ks1 = State.reset.ks1 := rfl
@[simp] theorem resetEvent_tblV : s.resetEvent.tblV = State.reset.tblV := rfl
@[simp] theorem resetEvent_tbl : s.resetEvent.tbl = State.reset.tbl := rfl
@[simp] theorem resetEvent_active : s.resetEvent.active = State.reset.active := rfl
@[simp] theorem resetEvent_iv : s.resetEvent.iv = State.reset.iv := rfl
@[simp] theorem resetEvent_ksb : s.resetEvent.ksb = State.reset.ksb := rfl
@[simp] theorem resetEvent_kpos : s.resetEvent.kpos = State.reset.kpos := rfl
@[simp] theorem resetEvent_tagLenL : s.resetEvent.tagLenL = State.reset.tagLenL := rfl
@[simp] theorem resetEvent_nonceLenL : s.resetEvent.nonceLenL = State.reset.nonceLenL := rfl
@[simp] theorem resetEvent_dialL : s.resetEvent.dialL = State.reset.dialL := rfl
@[simp] theorem resetEvent_spos : s.resetEvent.spos = State.reset.spos := rfl
@[simp] theorem resetEvent_mem : s.resetEvent.mem = s.mem := rfl
@[simp] theorem resetEvent_pending : s.resetEvent.pending = s.pending := rfl
@[simp] theorem resetEvent_readData : s.resetEvent.readData = s.readData := rfl

end Sys2Proof.Machine
end

