-- ==== Sys2Proof/Laws/Command.lean ====
section
/-! SUPPORT. The laws of the command skeleton and of its checks (30_encoding.md R66, 60_exceptions.md R247):
everything a command can do, said once. -/

namespace Sys2Proof.Machine

@[simp] theorem failIf_fails (c : Bool) (e : Err) : (failIf c e).fails = c := rfl

@[simp] theorem failIf_err (c : Bool) (e : Err) : (failIf c e).err = e := rfl

@[simp] theorem firstError_nil : firstError [] = none := rfl

/-- The first check decides, or the rest does (R247). -/
theorem firstError_cons (c : Check) (cs : List Check) :
    firstError (c :: cs) = if c.fails then some c.err else firstError cs := rfl

/-- No error where no check fails. -/
theorem firstError_eq_none {cs : List Check} : firstError cs = none ↔ ∀ c ∈ cs, c.fails = false := by
  induction cs with
  | nil => simp
  | cons c cs ih =>
    rw [firstError_cons, List.forall_mem_cons, ← ih]
    cases c.fails <;> simp

/-- An error comes from a check of the list that fails. -/
theorem firstError_mem {cs : List Check} {e : Err} (h : firstError cs = some e) :
    ∃ c ∈ cs, c.err = e ∧ c.fails = true := by
  induction cs with
  | nil => simp at h
  | cons c cs ih =>
    rw [firstError_cons] at h
    by_cases hc : c.fails = true
    · rw [if_pos hc] at h
      exact ⟨c, by simp, Option.some.inj h, hc⟩
    · rw [if_neg hc] at h
      obtain ⟨d, hd, h'⟩ := ih h
      exact ⟨d, by simp [hd], h'⟩

/-- All a command can do (R66): it is ignored, it raises the first failing check's error, or it has its effect. -/
theorem command_cases (s : State) (cs : List Check) (e : State) :
    (s.fault = true ∧ s.command cs e = s) ∨
    (s.fault = false ∧ ∃ err, firstError cs = some err ∧ s.command cs e = s.raise err) ∨
    (s.fault = false ∧ firstError cs = none ∧ s.command cs e = e) := by
  unfold State.command
  cases s.fault with
  | true => exact .inl ⟨rfl, rfl⟩
  | false =>
    cases h : firstError cs with
    | some err => exact .inr (.inl ⟨rfl, err, rfl, rfl⟩)
    | none => exact .inr (.inr ⟨rfl, rfl, rfl⟩)

/-- A faulted core ignores the command (60_exceptions.md R242). -/
theorem command_of_fault {s : State} (h : s.fault = true) (cs : List Check) (e : State) : s.command cs e = s := by
  simp [State.command, h]

/-- Where no check fails the command has its effect. -/
theorem command_of_pass {s : State} {cs : List Check} (h : s.fault = false) (hc : ∀ c ∈ cs, c.fails = false)
    (e : State) : s.command cs e = e := by
  simp [State.command, h, firstError_eq_none.mpr hc]

/-- Where a check fails, the first error is taken. -/
theorem command_of_error {s : State} {cs : List Check} {err : Err} (h : s.fault = false)
    (hc : firstError cs = some err) (e : State) : s.command cs e = s.raise err := by
  simp [State.command, h, hc]

/-! ## What each shared check checks -/

theorem regionOk_iff {n : Nat} {r : Region} : regionOk n r = true ↔ r.len = 0 ∨ r.addr + r.len ≤ n := by
  simp [regionOk]

theorem inexactOverlap_eq_false {r q : Region} :
    inexactOverlap r q = false ↔
      r.len = 0 ∨ q.len = 0 ∨ r.addr = q.addr ∨ r.addr + r.len ≤ q.addr ∨ q.addr + q.len ≤ r.addr := by
  rw [← Bool.not_eq_true, inexactOverlap]
  simp only [Bool.and_eq_true, decide_eq_true_eq]
  omega

theorem busCheck_fails {s : State} {rs : List Region} :
    (s.busCheck rs).fails = false ↔ ∀ r ∈ rs, r.len = 0 ∨ r.addr + r.len ≤ s.params.memSize := by
  simp [State.busCheck, regionOk_iff]

theorem overlapCheck_fails {s : State} {n m : Nat} :
    (s.overlapCheck n m).fails = false ↔
      n = 0 ∨ m = 0 ∨ s.dstAddr.toNat = s.srcAddr.toNat ∨ s.dstAddr.toNat + n ≤ s.srcAddr.toNat
        ∨ s.srcAddr.toNat + m ≤ s.dstAddr.toNat := by
  simp [State.overlapCheck, inexactOverlap_eq_false, State.region, State.addr]

theorem capCheck_fails {s : State} {n : Nat} : (s.capCheck n).fails = false ↔ n ≤ s.dstCap.toNat := by
  rw [State.capCheck, failIf_fails, decide_eq_false_iff_not, Nat.not_lt]; rfl

theorem seqCheck_fails {ok : Bool} : (seqCheck ok).fails = false ↔ ok = true := by
  simp [seqCheck]

@[simp] theorem busCheck_err (s : State) (rs : List Region) : (s.busCheck rs).err = .bus := rfl

@[simp] theorem overlapCheck_err (s : State) (n m : Nat) : (s.overlapCheck n m).err = .overlap := rfl

@[simp] theorem capCheck_err (s : State) (n : Nat) : (s.capCheck n).err = .dstShort := rfl

@[simp] theorem seqCheck_err (ok : Bool) : (seqCheck ok).err = .seq := rfl

/-! ## Operands -/

@[simp] theorem region_addr (s : State) (o : Operand) (n : Nat) : (s.region o n).addr = s.addr o := rfl

@[simp] theorem region_len (s : State) (o : Operand) (n : Nat) : (s.region o n).len = n := rfl

@[simp] theorem whole_addr (s : State) (o : Operand) : (s.whole o).addr = s.addr o := rfl

@[simp] theorem whole_len (s : State) (o : Operand) : (s.whole o).len = s.len o := rfl

@[simp] theorem bound_iff (s : State) (u : ModeUnit) : s.bound u = true ↔ s.active = some u := by
  simp [State.bound]

end Sys2Proof.Machine
end

