-- ==== Sys2Proof/Laws/Memory.lean ====
section
/-! SUPPORT. The laws of the buffer memory: what a write changes, that the canonical form is kept, and the
byte-string reads and writes in terms of single bytes (20_memory.md R41, R42). -/

namespace Sys2Proof.Machine

/-- An address below every listed one reads as unlisted. -/
theorem read_of_below {m : Memory} {x : Nat} (h : ∀ c ∈ m, x < c.1) : m.read x = unlistedByte := by
  induction m with
  | nil => rfl
  | cons c m ih =>
    obtain ⟨a', b'⟩ := c
    have h1 : x < a' := h (a', b') (by simp)
    have h2 := ih (fun d hd => h d (by simp [hd]))
    simp [Memory.read, h2, Nat.ne_of_gt h1]

/-- The canonical form of a cons: the head is listed, below the rest, and the rest is canonical. -/
theorem wf_cons {a : Nat} {b : Byte} {m : Memory} :
    Memory.wf ((a, b) :: m) ↔ (∀ c ∈ m, a < c.1) ∧ b ≠ unlistedByte ∧ m.wf := by
  simp only [Memory.wf, List.pairwise_cons, List.forall_mem_cons]
  tauto

/-- Every address of a memory after a write is the one written or was listed before. -/
theorem mem_write_addr {m : Memory} {a : Nat} {b : Byte} {c : Host.Cell} (h : c ∈ m.write a b) :
    c.1 = a ∨ c ∈ m := by
  induction m with
  | nil =>
    simp only [Memory.write] at h
    split at h <;> simp_all
  | cons d m ih =>
    obtain ⟨a', b'⟩ := d
    simp only [Memory.write] at h
    split_ifs at h
    · exact .inr h
    · rcases List.mem_cons.mp h with rfl | h
      · exact .inl rfl
      · exact .inr h
    · exact .inr (List.mem_cons_of_mem _ h)
    · rcases List.mem_cons.mp h with rfl | h
      · exact .inl rfl
      · exact .inr (List.mem_cons_of_mem _ h)
    · rcases List.mem_cons.mp h with rfl | h
      · exact .inr List.mem_cons_self
      · exact (ih h).imp_right (List.mem_cons_of_mem _)

/-- A write keeps the canonical form. -/
theorem write_wf {m : Memory} (a : Nat) (b : Byte) (h : m.wf) : (m.write a b).wf := by
  induction m with
  | nil =>
    simp only [Memory.write]
    split <;> simp_all [Memory.wf]
  | cons d m ih =>
    obtain ⟨a', b'⟩ := d
    obtain ⟨h1, h2, h3⟩ := wf_cons.mp h
    simp only [Memory.write]
    split_ifs with hlt hb heq hb
    · exact h
    · refine wf_cons.mpr ⟨?_, hb, h⟩
      intro c hc
      rcases List.mem_cons.mp hc with rfl | hc
      · exact hlt
      · exact lt_trans hlt (h1 c hc)
    · exact h3
    · subst heq; exact wf_cons.mpr ⟨h1, hb, h3⟩
    · refine wf_cons.mpr ⟨?_, h2, ih h3⟩
      intro c hc
      rcases mem_write_addr hc with h | h
      · omega
      · exact h1 c h

/-- Reading after a write: the byte written at its address, every other byte as before. -/
theorem read_write {m : Memory} (h : m.wf) (a x : Nat) (b : Byte) :
    (m.write a b).read x = if x = a then b else m.read x := by
  induction m with
  | nil =>
    simp only [Memory.write]
    split <;> simp_all [Memory.read, eq_comm]
  | cons d m ih =>
    obtain ⟨a', b'⟩ := d
    obtain ⟨h1, h2, h3⟩ := wf_cons.mp h
    have hx : ∀ y, y ≤ a' → Memory.read m y = unlistedByte := fun y hy =>
      read_of_below (fun c hc => lt_of_le_of_lt hy (h1 c hc))
    by_cases hlt : a < a'
    · by_cases hb : b = unlistedByte <;> by_cases hxa : x = a
      · subst hxa; simp [Memory.write, Memory.read, hlt, hb, Nat.ne_of_gt hlt, hx x hlt.le]
      · simp [Memory.write, hlt, hb, hxa]
      · subst hxa; simp [Memory.write, Memory.read, hlt, hb]
      · simp [Memory.write, Memory.read, hlt, hb, hxa, Ne.symm hxa]
    · by_cases heq : a = a'
      · subst heq
        by_cases hb : b = unlistedByte <;> by_cases hxa : x = a
        · subst hxa; simp [Memory.write, hb, hx x le_rfl]
        · simp [Memory.write, Memory.read, hb, hxa, Ne.symm hxa]
        · subst hxa; simp [Memory.write, Memory.read, hb]
        · simp [Memory.write, Memory.read, hb, hxa, Ne.symm hxa]
      · by_cases hxa : x = a
        · subst hxa; simp [Memory.write, Memory.read, hlt, heq, Ne.symm heq, ih h3]
        · by_cases hx' : x = a'
          · subst hx'; simp [Memory.write, Memory.read, hlt, heq, hxa]
          · simp [Memory.write, Memory.read, hlt, heq, hxa, Ne.symm hx', ih h3]

/-- A byte-string write keeps the canonical form. -/
theorem writeBytes_wf {m : Memory} (a : Nat) (bs : Bytes) (h : m.wf) : (m.writeBytes a bs).wf := by
  induction bs generalizing m a with
  | nil => exact h
  | cons b bs ih => exact ih (a + 1) (write_wf a b h)

/-- Reading a byte after a byte-string write: inside the written range the byte written there, outside it the
byte as before. -/
theorem read_writeBytes {m : Memory} (h : m.wf) (a x : Nat) (bs : Bytes) :
    (m.writeBytes a bs).read x = if a ≤ x ∧ x < a + bs.length then bs.getD (x - a) 0 else m.read x := by
  induction bs generalizing m a with
  | nil => simp [Memory.writeBytes]
  | cons b bs ih =>
    rw [Memory.writeBytes, ih (write_wf a b h), read_write h]
    by_cases hxa : x = a
    · subst hxa; simp
    · have : a + 1 ≤ x ∧ x < a + 1 + bs.length ↔ a ≤ x ∧ x < a + (b :: bs).length := by
        simp only [List.length_cons]; omega
      simp only [this, hxa, if_false]
      split_ifs with hc
      · obtain ⟨k, rfl⟩ : ∃ k, x = a + 1 + k := ⟨x - (a + 1), by omega⟩
        rw [show a + 1 + k - a = k + 1 by omega, show a + 1 + k - (a + 1) = k by omega]
        rfl
      · rfl

/-- Outside the written range every byte reads as before. -/
theorem read_writeBytes_outside {m : Memory} (h : m.wf) {a x : Nat} {bs : Bytes}
    (hx : ¬(a ≤ x ∧ x < a + bs.length)) : (m.writeBytes a bs).read x = m.read x := by
  rw [read_writeBytes h, if_neg hx]

/-- Every address listed after a byte-string write is in the written range or was listed before. -/
theorem mem_writeBytes_addr {m : Memory} {a : Nat} {bs : Bytes} {c : Host.Cell}
    (h : c ∈ m.writeBytes a bs) : (a ≤ c.1 ∧ c.1 < a + bs.length) ∨ c ∈ m := by
  induction bs generalizing m a with
  | nil => exact .inr h
  | cons b bs ih =>
    rcases ih h with h | h
    · left; simp only [List.length_cons]; omega
    · rcases mem_write_addr h with h | h
      · left; simp only [List.length_cons]; omega
      · exact .inr h

@[simp] theorem length_readBytes (m : Memory) (a n : Nat) : (m.readBytes a n).length = n := by
  induction n generalizing a with
  | zero => rfl
  | succ n ih => simp [Memory.readBytes, ih]

/-- Byte i of a byte string read is the byte at its address (R41). -/
theorem getElem?_readBytes (m : Memory) (a n i : Nat) :
    (m.readBytes a n)[i]? = if i < n then some (m.read (a + i)) else none := by
  induction n generalizing a i with
  | zero => simp [Memory.readBytes]
  | succ n ih =>
    cases i with
    | zero => simp [Memory.readBytes]
    | succ i => simp [Memory.readBytes, ih, Nat.add_assoc, Nat.add_comm 1 i]

/-- Two memories that agree on a range read the same byte string there. -/
theorem readBytes_congr {m m' : Memory} {a n : Nat} (h : ∀ i < n, m.read (a + i) = m'.read (a + i)) :
    m.readBytes a n = m'.readBytes a n := by
  refine List.ext_getElem? fun i => ?_
  rw [getElem?_readBytes, getElem?_readBytes]
  split_ifs with hi
  · rw [h i hi]
  · rfl

/-- Reading a range is reading its two parts. -/
theorem readBytes_append (m : Memory) (a n k : Nat) :
    m.readBytes a (n + k) = m.readBytes a n ++ m.readBytes (a + n) k := by
  induction n generalizing a with
  | zero => simp [Memory.readBytes]
  | succ n ih =>
    rw [show n + 1 + k = (n + k) + 1 by omega]
    simp [Memory.readBytes, ih, Nat.add_assoc, Nat.add_comm 1 n]

/-- Reading back what was written. -/
theorem readBytes_writeBytes {m : Memory} (h : m.wf) (a : Nat) (bs : Bytes) :
    (m.writeBytes a bs).readBytes a bs.length = bs := by
  refine List.ext_getElem? fun i => ?_
  rw [getElem?_readBytes]
  split_ifs with hi
  · rw [read_writeBytes h, if_pos ⟨by omega, by omega⟩, Nat.add_sub_cancel_left]
    simp [List.getD, hi]
  · rw [List.getElem?_eq_none (by omega)]

/-- A byte string read outside a written range is as before. -/
theorem readBytes_writeBytes_disjoint {m : Memory} (h : m.wf) {a b n : Nat} {bs : Bytes}
    (hd : b + n ≤ a ∨ a + bs.length ≤ b) : (m.writeBytes a bs).readBytes b n = m.readBytes b n :=
  readBytes_congr fun i hi => read_writeBytes_outside h (by omega)

end Sys2Proof.Machine
end

