-- ==== Sys2Proof/Laws/Operands.lean ====
section
/-! SUPPORT. The laws of operands: what a fetched operand's bytes and blocks are, and everything a delivered
result does to the memory (20_memory.md R41, R42, R45, R49). -/

namespace Sys2Proof.Machine

/-! ## Reading -/

@[simp] theorem fetch_length (s : State) (o : Operand) (n : Nat) : (s.fetch o n).length = n :=
  length_readBytes ..

theorem getD_readBytes (m : Memory) (a : Nat) {n k : Nat} (h : k < n) :
    (m.readBytes a n).getD k 0 = m.read (a + k) := by
  rw [List.getD, getElem?_readBytes, if_pos h, Option.getD_some]

/-- Dropping from the front of a byte string read from memory. -/
theorem drop_readBytes (m : Memory) (a n k : Nat) : (m.readBytes a n).drop k = m.readBytes (a + k) (n - k) := by
  refine List.ext_getElem? fun i => ?_
  rw [List.getElem?_drop, getElem?_readBytes, getElem?_readBytes]
  have : k + i < n ↔ i < n - k := by omega
  simp [this, Nat.add_assoc]

theorem take_readBytes (m : Memory) (a n k : Nat) : (m.readBytes a n).take k = m.readBytes a (min k n) := by
  refine List.ext_getElem? fun i => ?_
  rw [List.getElem?_take, getElem?_readBytes, getElem?_readBytes]
  have : i < min k n ↔ i < k ∧ i < n := by omega
  by_cases h1 : i < k <;> by_cases h2 : i < n <;> simp [this, h1, h2]

/-- Byte j of a block of memory. -/
theorem blockByte_block (m : Memory) (a : Nat) {j : Nat} (h : j < 16) : blockByte (m.block a) j = m.read (a + j) := by
  rw [Memory.block, blockByte_blockOf h, getD_readBytes m a h]

/-- The bytes of a block of memory. -/
theorem bytesOf_block (m : Memory) (a : Nat) : bytesOf (m.block a) = m.readBytes a 16 :=
  bytesOf_blockOf (length_readBytes ..)

/-- A 16-byte operand is the block at its address. -/
theorem fetchBlock_eq (s : State) (o : Operand) : s.fetchBlock o = s.mem.block (s.addr o) := rfl

/-- The first 16 bytes of a longer string read from memory are the block at its address. -/
theorem blockOf_readBytes (m : Memory) (a : Nat) {n : Nat} (h : 16 ≤ n) : blockOf (m.readBytes a n) = m.block a := by
  rw [← blockOf_take, take_readBytes, Nat.min_eq_left h, Memory.block]

/-- Block i of a string of whole blocks read from memory. -/
theorem blocksOf_readBytes (m : Memory) (a : Nat) {n i : Nat} (hi : i < n / 16) :
    (blocksOf (m.readBytes a n))[i]? = some (m.block (a + 16 * i)) := by
  rw [blocksOf_getElem?, length_readBytes, if_pos (by omega), drop_readBytes, blockOf_readBytes _ _ (by omega)]

/-- The same block in two memories that agree on its 16 bytes. -/
theorem block_congr {m m' : Memory} {a : Nat} (h : ∀ i < 16, m.read (a + i) = m'.read (a + i)) :
    m.block a = m'.block a := by
  rw [Memory.block, Memory.block, readBytes_congr h]

/-! ## Writing -/

/-- A byte-string write, byte by byte (R42). -/
theorem written_writeBytes {m : Memory} (h : m.wf) (a : Nat) (bs : Bytes) : Written m (m.writeBytes a bs) a bs := by
  refine ⟨fun x hx => read_writeBytes_outside h hx, fun k hk => ?_⟩
  rw [read_writeBytes h, if_pos (by omega), Nat.add_sub_cancel_left]

/-- The written range reads back as what was written. -/
theorem readBytes_of_written {m m' : Memory} {a : Nat} {bs : Bytes} (h : Written m m' a bs) :
    m'.readBytes a bs.length = bs := by
  refine List.ext_getElem? fun i => ?_
  rw [getElem?_readBytes]
  split_ifs with hi
  · rw [h.2 i hi]; simp [List.getD, hi]
  · rw [List.getElem?_eq_none (by omega)]

/-- Part of the written range reads back as that part of what was written. -/
theorem readBytes_part_of_written {m m' : Memory} {a k n : Nat} {bs : Bytes} (h : Written m m' a bs)
    (hn : k + n ≤ bs.length) : m'.readBytes (a + k) n = (bs.drop k).take n := by
  rw [← readBytes_of_written h, drop_readBytes, take_readBytes, Nat.min_eq_left (by omega)]

/-- Block i of a written list of blocks. -/
theorem block_of_written {m m' : Memory} {a i : Nat} {bs : Bytes} {b : Block} (h : Written m m' a bs)
    (hb : (blocksOf bs)[i]? = some b) (hi : 16 * i + 16 ≤ bs.length) : m'.block (a + 16 * i) = b := by
  rw [blocksOf_getElem?, if_pos (by omega)] at hb
  rw [← Option.some.inj hb, Memory.block, readBytes_part_of_written h hi, blockOf_take]

/-- Everything a delivered result does: its bytes at dst, ERR 0, OUT_LEN its length, nothing else (R49). -/
theorem deliver_eq (s : State) (out : Bytes) :
    s.deliver out = { s with
      mem := s.mem.writeBytes s.dstAddr.toNat out, err := none, outLen := BitVec.ofNat 64 out.length } := rfl

/-- Everything an authentication failure does: zeros at dst, ERR E_AUTH, OUT_LEN 0 (42_gcm.md R132). -/
theorem authFailure_eq (s : State) (n : Nat) :
    s.authFailure n = { s with
      mem := s.mem.writeBytes s.dstAddr.toNat (zeros n), err := some .auth, fault := s.fault || false
      outLen := 0 } := rfl

/-- Everything taking an error does (60_exceptions.md R243, R244). -/
theorem raise_eq (s : State) (e : Err) :
    s.raise e = { s with err := some e, fault := s.fault || isClassP e, outLen := 0 } := rfl

end Sys2Proof.Machine
end

