-- ==== Sys2Proof/Laws/Checks.lean ====
section
/-! SUPPORT. When the shared check lists pass, in the words of Safety: 43_block_stream_modes.md R142, R143,
42_gcm.md R129, R130, 40_sm4.md R91. -/

namespace Sys2Proof.Machine

theorem failIf_decide_fails {p : Prop} [Decidable p] {e : Err} : (failIf (decide p) e).fails = false ↔ ¬p := by
  rw [failIf_fails, decide_eq_false_iff_not]

/-- The window checks pass exactly where `Windows` holds (R142). -/
theorem windowChecks_pass {s : State} {n : Nat} :
    (∀ c ∈ windowChecks s n, c.fails = false) ↔ Windows s n n := by
  simp only [windowChecks, List.forall_mem_cons, capCheck_fails, busCheck_fails, overlapCheck_fails, region_len,
    region_addr, State.addr, List.not_mem_nil, false_imp_iff, implies_true, and_true, and_assoc]

/-- `BlockChecks(u)` pass exactly where the command can run (R142). -/
theorem blockChecks_pass {u : ModeUnit} {s : State} (h : s.fault = false) :
    (∀ c ∈ blockChecks u s, c.fails = false) ↔ BlockReady u s := by
  rw [blockChecks, List.forall_mem_cons, List.forall_mem_cons, windowChecks_pass, failIf_decide_fails,
    seqCheck_fails, Bool.and_eq_true, bound_iff, ne_eq, not_not]
  exact ⟨fun ⟨a, b, c⟩ => ⟨⟨h, a⟩, b, c⟩, fun ⟨⟨_, a⟩, b, c⟩ => ⟨a, b, c⟩⟩

/-- `StreamChecks(u)` pass exactly where the command can run (R143). -/
theorem streamChecks_pass {u : ModeUnit} {s : State} (h : s.fault = false) :
    (∀ c ∈ streamChecks u s, c.fails = false) ↔ StreamReady u s := by
  rw [streamChecks, List.forall_mem_cons, windowChecks_pass, seqCheck_fails, Bool.and_eq_true, bound_iff]
  exact ⟨fun ⟨a, b⟩ => ⟨⟨h, a⟩, b⟩, fun ⟨⟨_, a⟩, b⟩ => ⟨a, b⟩⟩

/-- The nonce check passes exactly where the nonce has the bound length (R129). -/
theorem nonceCheck_fails {s : State} : (nonceCheck s).fails = false ↔ s.ivLen = s.nonceLenL := by
  rw [nonceCheck, failIf_decide_fails, ne_eq, not_not, State.len, BitVec.toNat_inj]

/-- An OPEN input is long enough exactly where it holds a tag (R130). -/
theorem shortInputCheck_fails {s : State} :
    (shortInputCheck s).fails = false ↔ s.tagLenL.toNat ≤ s.srcLen.toNat := by
  rw [shortInputCheck, failIf_decide_fails, Nat.not_lt]; rfl

/-- The last checks of a SEAL pass exactly where its windows, its aad and the other regions are in place (R129). -/
theorem sealChecks_pass {s : State} {extra : List Region} :
    (∀ c ∈ sealChecks s extra, c.fails = false) ↔
      SealWindows s ∧ InMemory s s.aadAddr.toNat s.aadLen.toNat
        ∧ ∀ r ∈ extra, r.len = 0 ∨ r.addr + r.len ≤ s.params.memSize := by
  simp only [sealChecks, List.forall_mem_cons, List.forall_mem_append, capCheck_fails, busCheck_fails,
    overlapCheck_fails, region_len, region_addr, whole_len, whole_addr, State.addr, State.len, State.tagLen,
    List.not_mem_nil, false_imp_iff, implies_true, and_true, SealWindows, Windows, InMemory, SameOrApart]
  tauto

/-- The last checks of an OPEN pass exactly where its windows, all of src, its aad and the other regions are in
place; that src holds a tag is checked before them (R130). -/
theorem openChecks_pass {s : State} {extra : List Region} :
    (∀ c ∈ openChecks s extra, c.fails = false) ↔
      (InMemory s s.srcAddr.toNat s.srcLen.toNat
        ∧ openLen s ≤ s.dstCap.toNat ∧ InMemory s s.dstAddr.toNat (openLen s)
        ∧ SameOrApart s.dstAddr.toNat (openLen s) s.srcAddr.toNat (openLen s))
      ∧ InMemory s s.aadAddr.toNat s.aadLen.toNat
      ∧ ∀ r ∈ extra, r.len = 0 ∨ r.addr + r.len ≤ s.params.memSize := by
  simp only [openChecks, List.forall_mem_cons, List.forall_mem_append, capCheck_fails, busCheck_fails,
    overlapCheck_fails, region_len, region_addr, whole_len, whole_addr, State.addr, State.len, State.tagLen,
    State.bodyLen, List.not_mem_nil, false_imp_iff, implies_true, and_true, openLen, InMemory, SameOrApart]
  tauto

/-! ## Lengths of results -/

theorem gcmTag_length_le (ks : KeySchedule) (p : List Elem) (t : Nat) (j0 : Block) (aad ct : Bytes) :
    (gcmTag ks p t j0 aad ct).length ≤ t := by
  rw [gcmTag, List.length_take]; omega

theorem ccmTag_length_le (f : Block → Block) (m : Nat) (nonce aad pt : Bytes) :
    (ccmTag f m nonce aad pt).length ≤ m := by
  rw [ccmTag, List.length_take]; omega

theorem gxmTag_length_le (p : List Elem) (t : Nat) (aad ct mask : Bytes) : (gxmTag p t aad ct mask).length ≤ t := by
  rw [gxmTag, xorBytes_length, List.length_take]; omega

@[simp] theorem sm4Lanes_length (f : Block → Block) (s : State) (k : Nat) : (sm4Lanes f s k).length = 16 * k := by
  rw [sm4Lanes, bytesOfBlocks_length, List.length_map, blocksOf_length, fetch_length]
  omega

/-- A sector's result has the sector's length (44_xts_hctr.md R185, R186). -/
theorem xtsSector_length (f mul2 a b : Block → Block) (t : Block) {src : Bytes} (h : 16 ≤ src.length) :
    (xtsSector f mul2 a b t src).length = src.length := by
  unfold xtsSector
  simp only []
  split_ifs with hb
  · simp only [bytesOfBlocks_length, chain_length, blocksOf_length, List.length_take]; omega
  · simp only [List.length_append, bytesOfBlocks_length, chain_length, blocksOf_length, bytesOf_length,
      List.length_take]
    omega

end Sys2Proof.Machine
end

