-- ==== Sys2Proof/Laws/Keystream.lean ====
section
/-! SUPPORT. The laws of the counter-mode passes and of the tags: lengths, each byte of the output, and that a
pass undoes itself (42_gcm.md R125, 44_xts_hctr.md R193, 45_ccm_gxm_mur.md R206, R213, R222, R223). -/

namespace Sys2Proof.Machine

/-! ## Lengths in bits (`bitLength`) -/

theorem bitLength_toNat {n : Nat} (h : n * 8 < 2 ^ 64) : (bitLength n).toNat = n * 8 := by
  rw [bitLength, if_pos h, BitVec.toNat_ofNat, Nat.mod_eq_of_lt h]

theorem bitLength_overlong {n : Nat} (h : 2 ^ 64 ≤ n * 8) : bitLength n = Config.overlongBitLength n :=
  if_neg (Nat.not_lt.mpr h)

theorem lengthsBlock_length (aad ct : Bytes) : (lengthsBlock aad ct).length = 16 := by simp [lengthsBlock]

theorem lenWord_length (n : Nat) : (lenWord n).length = 16 := by simp [lenWord]

/-! ## Counter blocks by index (`indexedCtr`) -/

theorem indexedCtrPieces_getElem? (f : Block → Block) (ctr : Nat → Block) (n k : Nat) (bs : Bytes) (x : Nat)
    (h : bs.length ≤ 16 * n) :
    (indexedCtrPieces f ctr k (pieces n bs))[x]?
      = (bs[x]?).map fun b => b ^^^ blockByte (f (ctr (k + x / 16))) (x % 16) := by
  induction n generalizing k bs x with
  | zero =>
    have : bs = [] := List.length_eq_zero_iff.mp (by omega)
    subst this; simp [pieces, indexedCtrPieces]
  | succ n ih =>
    rw [pieces, indexedCtrPieces]
    have hl : (xorBytes (bs.take 16) (bytesOf (f (ctr k)))).length = min 16 bs.length := by
      rw [xorBytes_length, List.length_take, bytesOf_length]; omega
    by_cases hx : x < 16
    · rw [Nat.div_eq_of_lt hx, Nat.mod_eq_of_lt hx, Nat.add_zero]
      by_cases hb : x < bs.length
      · rw [List.getElem?_append_left (by omega), xorBytes, List.getElem?_zipWith, List.getElem?_take_of_lt hx,
          getElem?_bytesOf hx, List.getElem?_eq_getElem hb]
        rfl
      · rw [List.getElem?_append_right (by omega), ih _ _ _ (by simp; omega), List.getElem?_drop,
          List.getElem?_eq_none (by omega), List.getElem?_eq_none (by omega)]
        rfl
    · by_cases hb : 16 ≤ bs.length
      · rw [List.getElem?_append_right (by omega), ih _ _ _ (by simp; omega), List.getElem?_drop, hl,
          show min 16 bs.length = 16 by omega, show 16 + (x - 16) = x by omega,
          show k + 1 + (x - 16) / 16 = k + x / 16 by omega, show (x - 16) % 16 = x % 16 by omega]
      · rw [List.getElem?_append_right (by omega), ih _ _ _ (by simp; omega), List.getElem?_drop,
          List.getElem?_eq_none (by omega), List.getElem?_eq_none (by omega)]
        rfl

/-- Byte x of an `indexedCtr` pass. -/
theorem indexedCtr_getElem? (f : Block → Block) (ctr : Nat → Block) (data : Bytes) (x : Nat) :
    (indexedCtr f ctr data)[x]? = (data[x]?).map fun b => b ^^^ blockByte (f (ctr (x / 16 + 1))) (x % 16) := by
  rw [indexedCtr, chunks16, indexedCtrPieces_getElem? f ctr _ 1 data x (by omega), Nat.add_comm 1]

@[simp] theorem indexedCtr_length (f : Block → Block) (ctr : Nat → Block) (data : Bytes) :
    (indexedCtr f ctr data).length = data.length := by
  refine le_antisymm ?_ ?_
  · by_contra h
    have := indexedCtr_getElem? f ctr data data.length
    rw [List.getElem?_eq_none (l := data) le_rfl, Option.map_none, List.getElem?_eq_none_iff] at this
    omega
  · by_contra h
    have := indexedCtr_getElem? f ctr data (indexedCtr f ctr data).length
    rw [List.getElem?_eq_none (le_refl _), List.getElem?_eq_getElem (by omega)] at this
    simp at this

/-- A pass undoes itself. -/
theorem indexedCtr_indexedCtr (f : Block → Block) (ctr : Nat → Block) (data : Bytes) :
    indexedCtr f ctr (indexedCtr f ctr data) = data := by
  refine List.ext_getElem? fun x => ?_
  rw [indexedCtr_getElem?, indexedCtr_getElem?, Option.map_map]
  cases data[x]? <;> simp

/-! ## Counter blocks by `inc32` (`gctr`) -/

theorem gctrPieces_eq (f : Block → Block) (cb : Block) (k : Nat) (ps : List Bytes) :
    gctrPieces f (inc32^[k] cb) ps = indexedCtrPieces f (fun i => inc32^[i] cb) k ps := by
  induction ps generalizing k with
  | nil => rfl
  | cons p ps ih => rw [gctrPieces, indexedCtrPieces, ← ih, Function.iterate_succ_apply']

/-- `gctr` is a pass whose counter block is the i-th increment, from i = 0. -/
theorem gctr_eq (f : Block → Block) (cb : Block) (data : Bytes) :
    gctr f cb data = indexedCtrPieces f (fun i => inc32^[i] cb) 0 (chunks16 data) :=
  gctrPieces_eq f cb 0 _

/-- Byte x of a `gctr` pass. -/
theorem gctr_getElem? (f : Block → Block) (cb : Block) (data : Bytes) (x : Nat) :
    (gctr f cb data)[x]? = (data[x]?).map fun b => b ^^^ blockByte (f (inc32^[x / 16] cb)) (x % 16) := by
  rw [gctr_eq, chunks16, indexedCtrPieces_getElem? _ _ _ _ _ _ (by omega), Nat.zero_add]

@[simp] theorem gctr_length (f : Block → Block) (cb : Block) (data : Bytes) : (gctr f cb data).length = data.length := by
  refine le_antisymm ?_ ?_
  · by_contra h
    have := gctr_getElem? f cb data data.length
    rw [List.getElem?_eq_none (l := data) le_rfl, Option.map_none, List.getElem?_eq_none_iff] at this
    omega
  · by_contra h
    have := gctr_getElem? f cb data (gctr f cb data).length
    rw [List.getElem?_eq_none (le_refl _), List.getElem?_eq_getElem (by omega)] at this
    simp at this

/-- A pass undoes itself. -/
theorem gctr_gctr (f : Block → Block) (cb : Block) (data : Bytes) : gctr f cb (gctr f cb data) = data := by
  refine List.ext_getElem? fun x => ?_
  rw [gctr_getElem?, gctr_getElem?, Option.map_map]
  cases data[x]? <;> simp

theorem extractLsb'_low_append (a : BitVec 96) (b : BitVec 32) : (a ++ b).extractLsb' 0 32 = b := by
  apply BitVec.eq_of_getLsbD_eq
  intro i hi
  rw [BitVec.getLsbD_extractLsb', Nat.zero_add, BitVec.getLsbD_append (x := a) (y := b)]
  simp [hi]

theorem extractLsb'_high_append (a : BitVec 96) (b : BitVec 32) : (a ++ b).extractLsb' 32 96 = a := by
  apply BitVec.eq_of_getLsbD_eq
  intro i hi
  rw [BitVec.getLsbD_extractLsb', BitVec.getLsbD_append (x := a) (y := b)]
  simp [hi]

/-- i increments count i in the last four bytes. -/
theorem inc32_iterate (cb : Block) (i : Nat) :
    inc32^[i + 1] cb = cb.extractLsb' 32 96 ++ (cb.extractLsb' 0 32 + BitVec.ofNat 32 (i + 1)) := by
  induction i with
  | zero => rfl
  | succ i ih =>
    rw [Function.iterate_succ_apply', ih, inc32, extractLsb'_low_append, extractLsb'_high_append, BitVec.add_assoc]
    congr 2
    apply BitVec.eq_of_toNat_eq
    simp [BitVec.toNat_add]

/-! ## Keystreams of the stream parameters -/

@[simp] theorem keystream_length (ks : Nat → Byte) (p k : Nat) : (keystream ks p k).length = k := by
  induction k generalizing p with
  | zero => rfl
  | succ k ih => simp [keystream, ih]

/-- Byte j of a keystream (45_ccm_gxm_mur.md R213). -/
theorem keystream_getElem? (ks : Nat → Byte) (p k j : Nat) :
    (keystream ks p k)[j]? = if j < k then some (ks (p + j)) else none := by
  induction k generalizing p j with
  | zero => simp [keystream]
  | succ k ih =>
    cases j with
    | zero => simp [keystream]
    | succ j => simp [keystream, ih, Nat.add_assoc, Nat.add_comm 1 j]

/-! ## Tags and stream IVs -/

theorem gcmTag_length (ks : KeySchedule) (p : List Elem) {t : Nat} (j0 : Block) (aad ct : Bytes) (h : t ≤ 16) :
    (gcmTag ks p t j0 aad ct).length = t := by
  rw [gcmTag, List.length_take, bytesOf_length, Nat.min_eq_left h]

theorem ccmTag_length (f : Block → Block) {m : Nat} (nonce aad pt : Bytes) (h : m ≤ 16) :
    (ccmTag f m nonce aad pt).length = m := by
  rw [ccmTag, List.length_take, bytesOf_length, Nat.min_eq_left h]

theorem gxmTag_length (p : List Elem) {t : Nat} (aad ct mask : Bytes) (h : t ≤ 16) (hm : mask.length = t) :
    (gxmTag p t aad ct mask).length = t := by
  rw [gxmTag, xorBytes_length, List.length_take, bytesOf_length, hm]
  omega

theorem murTag_length {new : Bytes → Bytes → Option (Nat → Byte)} {tail : MurIvTail} {p : List Elem} {t : Nat}
    {iv k2 pt aad tag : Bytes} (h : murTag new tail p t iv k2 pt aad = some tag) : tag.length = t := by
  rw [murTag, firstOf] at h
  split at h
  · simp at h
  · rw [← Option.some.inj h, keystream_length]

theorem murXor_length {new : Bytes → Bytes → Option (Nat → Byte)} {k1 iv tag data out : Bytes}
    (h : murXor new k1 iv tag data = some out) : out.length = data.length := by
  rw [murXor, firstOf] at h
  split at h
  · simp at h
  · rw [← Option.some.inj h, xorBytes_length, keystream_length, Nat.min_self]

/-! ## HCTR -/

@[simp] theorem hctrStream_length (f : Block → Block) (v : Block) (data : Bytes) :
    (hctrStream f v data).length = data.length := indexedCtr_length ..

theorem hctrEncrypt_length (ks : KeySchedule) (p : List Elem) (tw : Block) {src : Bytes} (h : 16 ≤ src.length) :
    (hctrEncrypt ks p tw src).length = src.length := by
  rw [hctrEncrypt, List.length_append, bytesOf_length, hctrStream_length, List.length_drop]
  omega

theorem hctrDecrypt_length (ks : KeySchedule) (p : List Elem) (tw : Block) {src : Bytes} (h : 16 ≤ src.length) :
    (hctrDecrypt ks p tw src).length = src.length := by
  rw [hctrDecrypt, List.length_append, bytesOf_length, hctrStream_length, List.length_drop]
  omega

end Sys2Proof.Machine
end

