-- ==== Sys2Proof/Laws/PerInstr.lean ====
section
/-! SUPPORT. The per-instruction family `EncodingRoundTrip`: each command is well-formed, and its word, which
has its UNIT and FUNC numbers in place and every other bit 0, decodes to it (30_encoding.md R60, R62, R63). -/

namespace Sys2Proof.Laws

/-- The command is well-formed, its word is a well-formed value with the command's own two numbers, and the
word decodes to the command. -/
def EncodingRoundTrip.Statement (i : Instr) : Prop :=
  i.wellFormed = true ∧ CommandWord.ofValue (encode i) = ⟨i.funcNo, i.unitNo, 0⟩
    ∧ (CommandWord.ofValue (encode i)).wellFormed = true ∧ decode (encode i) = .ok i

theorem EncodingRoundTrip.sysNop : EncodingRoundTrip.Statement .sysNop := ⟨rfl, by decide, by decide, rfl⟩
theorem EncodingRoundTrip.sysZeroize : EncodingRoundTrip.Statement .sysZeroize := ⟨rfl, by decide, by decide, rfl⟩
theorem EncodingRoundTrip.sm4Init : EncodingRoundTrip.Statement .sm4Init := ⟨rfl, by decide, by decide, rfl⟩
theorem EncodingRoundTrip.sm4Enc : EncodingRoundTrip.Statement .sm4Enc := ⟨rfl, by decide, by decide, rfl⟩
theorem EncodingRoundTrip.sm4Dec : EncodingRoundTrip.Statement .sm4Dec := ⟨rfl, by decide, by decide, rfl⟩
theorem EncodingRoundTrip.sm4Encb : EncodingRoundTrip.Statement .sm4Encb := ⟨rfl, by decide, by decide, rfl⟩
theorem EncodingRoundTrip.sm4Decb : EncodingRoundTrip.Statement .sm4Decb := ⟨rfl, by decide, by decide, rfl⟩
theorem EncodingRoundTrip.gfInit : EncodingRoundTrip.Statement .gfInit := ⟨rfl, by decide, by decide, rfl⟩
theorem EncodingRoundTrip.gfMul : EncodingRoundTrip.Statement .gfMul := ⟨rfl, by decide, by decide, rfl⟩
theorem EncodingRoundTrip.gfUpd : EncodingRoundTrip.Statement .gfUpd := ⟨rfl, by decide, by decide, rfl⟩
theorem EncodingRoundTrip.ecbInit : EncodingRoundTrip.Statement .ecbInit := ⟨rfl, by decide, by decide, rfl⟩
theorem EncodingRoundTrip.ecbEnc : EncodingRoundTrip.Statement .ecbEnc := ⟨rfl, by decide, by decide, rfl⟩
theorem EncodingRoundTrip.ecbDec : EncodingRoundTrip.Statement .ecbDec := ⟨rfl, by decide, by decide, rfl⟩
theorem EncodingRoundTrip.cbcInit : EncodingRoundTrip.Statement .cbcInit := ⟨rfl, by decide, by decide, rfl⟩
theorem EncodingRoundTrip.cbcEnc : EncodingRoundTrip.Statement .cbcEnc := ⟨rfl, by decide, by decide, rfl⟩
theorem EncodingRoundTrip.cbcDec : EncodingRoundTrip.Statement .cbcDec := ⟨rfl, by decide, by decide, rfl⟩
theorem EncodingRoundTrip.cbcSetiv : EncodingRoundTrip.Statement .cbcSetiv := ⟨rfl, by decide, by decide, rfl⟩
theorem EncodingRoundTrip.cfbInit : EncodingRoundTrip.Statement .cfbInit := ⟨rfl, by decide, by decide, rfl⟩
theorem EncodingRoundTrip.cfbEnc : EncodingRoundTrip.Statement .cfbEnc := ⟨rfl, by decide, by decide, rfl⟩
theorem EncodingRoundTrip.cfbDec : EncodingRoundTrip.Statement .cfbDec := ⟨rfl, by decide, by decide, rfl⟩
theorem EncodingRoundTrip.ofbInit : EncodingRoundTrip.Statement .ofbInit := ⟨rfl, by decide, by decide, rfl⟩
theorem EncodingRoundTrip.ofbXor : EncodingRoundTrip.Statement .ofbXor := ⟨rfl, by decide, by decide, rfl⟩
theorem EncodingRoundTrip.ctrInit : EncodingRoundTrip.Statement .ctrInit := ⟨rfl, by decide, by decide, rfl⟩
theorem EncodingRoundTrip.ctrXor : EncodingRoundTrip.Statement .ctrXor := ⟨rfl, by decide, by decide, rfl⟩
theorem EncodingRoundTrip.xtsInit : EncodingRoundTrip.Statement .xtsInit := ⟨rfl, by decide, by decide, rfl⟩
theorem EncodingRoundTrip.xtsEnc : EncodingRoundTrip.Statement .xtsEnc := ⟨rfl, by decide, by decide, rfl⟩
theorem EncodingRoundTrip.xtsDec : EncodingRoundTrip.Statement .xtsDec := ⟨rfl, by decide, by decide, rfl⟩
theorem EncodingRoundTrip.bcInit : EncodingRoundTrip.Statement .bcInit := ⟨rfl, by decide, by decide, rfl⟩
theorem EncodingRoundTrip.bcEnc : EncodingRoundTrip.Statement .bcEnc := ⟨rfl, by decide, by decide, rfl⟩
theorem EncodingRoundTrip.bcDec : EncodingRoundTrip.Statement .bcDec := ⟨rfl, by decide, by decide, rfl⟩
theorem EncodingRoundTrip.bcSetiv : EncodingRoundTrip.Statement .bcSetiv := ⟨rfl, by decide, by decide, rfl⟩
theorem EncodingRoundTrip.ofbnlfInit : EncodingRoundTrip.Statement .ofbnlfInit := ⟨rfl, by decide, by decide, rfl⟩
theorem EncodingRoundTrip.ofbnlfEnc : EncodingRoundTrip.Statement .ofbnlfEnc := ⟨rfl, by decide, by decide, rfl⟩
theorem EncodingRoundTrip.ofbnlfDec : EncodingRoundTrip.Statement .ofbnlfDec := ⟨rfl, by decide, by decide, rfl⟩
theorem EncodingRoundTrip.ofbnlfSetiv : EncodingRoundTrip.Statement .ofbnlfSetiv := ⟨rfl, by decide, by decide, rfl⟩
theorem EncodingRoundTrip.hctrInit : EncodingRoundTrip.Statement .hctrInit := ⟨rfl, by decide, by decide, rfl⟩
theorem EncodingRoundTrip.hctrEnc : EncodingRoundTrip.Statement .hctrEnc := ⟨rfl, by decide, by decide, rfl⟩
theorem EncodingRoundTrip.hctrDec : EncodingRoundTrip.Statement .hctrDec := ⟨rfl, by decide, by decide, rfl⟩
theorem EncodingRoundTrip.gcmInit : EncodingRoundTrip.Statement .gcmInit := ⟨rfl, by decide, by decide, rfl⟩
theorem EncodingRoundTrip.gcmSeal : EncodingRoundTrip.Statement .gcmSeal := ⟨rfl, by decide, by decide, rfl⟩
theorem EncodingRoundTrip.gcmOpen : EncodingRoundTrip.Statement .gcmOpen := ⟨rfl, by decide, by decide, rfl⟩
theorem EncodingRoundTrip.ccmInit : EncodingRoundTrip.Statement .ccmInit := ⟨rfl, by decide, by decide, rfl⟩
theorem EncodingRoundTrip.ccmSeal : EncodingRoundTrip.Statement .ccmSeal := ⟨rfl, by decide, by decide, rfl⟩
theorem EncodingRoundTrip.ccmOpen : EncodingRoundTrip.Statement .ccmOpen := ⟨rfl, by decide, by decide, rfl⟩
theorem EncodingRoundTrip.gxmInit : EncodingRoundTrip.Statement .gxmInit := ⟨rfl, by decide, by decide, rfl⟩
theorem EncodingRoundTrip.gxmSeal : EncodingRoundTrip.Statement .gxmSeal := ⟨rfl, by decide, by decide, rfl⟩
theorem EncodingRoundTrip.gxmOpen : EncodingRoundTrip.Statement .gxmOpen := ⟨rfl, by decide, by decide, rfl⟩
theorem EncodingRoundTrip.murInit : EncodingRoundTrip.Statement .murInit := ⟨rfl, by decide, by decide, rfl⟩
theorem EncodingRoundTrip.murSeal : EncodingRoundTrip.Statement .murSeal := ⟨rfl, by decide, by decide, rfl⟩
theorem EncodingRoundTrip.murOpen : EncodingRoundTrip.Statement .murOpen := ⟨rfl, by decide, by decide, rfl⟩

end Sys2Proof.Laws
end

