-- ==== Sys2Proof/Laws/Step.lean ====
section
/-! SUPPORT. Everything a step can do, said once (10_state.md R10, R11; 60_exceptions.md R258). -/

namespace Sys2Proof.Machine

/-- With nothing pending the core is idle. -/
theorem step_idle {s : State} (h : s.pending = []) : step s = .next s := by
  rw [step, serveNext, h]

/-- With an event pending, the step is that event, on the state with the event taken. -/
theorem step_pending {s : State} {e : HostEvent} {rest : List HostEvent} (h : s.pending = e :: rest) :
    step s = serveHost e { s with pending := rest } := by
  rw [step, serveNext, h]

/-- Everything a step that answers a next state can have done: nothing, a command, an illegal word, a register
write, a register read, a byte stored, a byte read, or the reset event. -/
theorem step_cases {s t : State} (h : step s = .next t) :
    (s.pending = [] ∧ t = s)
    ∨ (∃ v rest i, s.pending = .writeReg 0 v :: rest ∧ decode v = .ok i ∧ exec i { s with pending := rest } = .next t)
    ∨ (∃ v rest r, s.pending = .writeReg 0 v :: rest ∧ decode v = .error r
        ∧ illegalCommand { s with pending := rest } = .next t)
    ∨ (∃ no v rest, no ≠ 0 ∧ s.pending = .writeReg no v :: rest
        ∧ t = ({ s with pending := rest } : State).writeReg no v)
    ∨ (∃ no rest, s.pending = .readReg no :: rest ∧ t = { s with pending := rest, readData := s.readReg no })
    ∨ (∃ a b rest, s.pending = .storeByte a b :: rest ∧ a < s.params.memSize
        ∧ t = { s with pending := rest, mem := s.mem.write a b })
    ∨ (∃ a rest, s.pending = .loadByte a :: rest ∧ a < s.params.memSize
        ∧ t = { s with pending := rest, readData := (s.mem.read a).setWidth 64 })
    ∨ (∃ rest, s.pending = .reset :: rest ∧ t = ({ s with pending := rest } : State).resetEvent) := by
  cases hp : s.pending with
  | nil =>
    rw [step_idle hp] at h
    exact .inl ⟨rfl, (Host.Outcome.next.inj h).symm⟩
  | cons e rest =>
    rw [step_pending hp] at h
    refine .inr ?_
    cases e with
    | writeReg no v =>
      rw [serveHost] at h
      split at h
      · subst no
        rw [issueCommand] at h
        split at h
        · exact .inl ⟨v, rest, _, rfl, ‹_›, h⟩
        · exact .inr (.inl ⟨v, rest, _, rfl, ‹_›, h⟩)
      · exact .inr (.inr (.inl ⟨no, v, rest, ‹_›, rfl, (Host.Outcome.next.inj h).symm⟩))
    | readReg no => exact .inr (.inr (.inr (.inl ⟨no, rest, rfl, (Host.Outcome.next.inj h).symm⟩)))
    | storeByte a b =>
      rw [serveHost, withAddress] at h
      split at h
      · exact .inr (.inr (.inr (.inr (.inl ⟨a, b, rest, rfl, ‹_›, (Host.Outcome.next.inj h).symm⟩))))
      · cases h
    | loadByte a =>
      rw [serveHost, withAddress] at h
      split at h
      · exact .inr (.inr (.inr (.inr (.inr (.inl ⟨a, rest, rfl, ‹_›, (Host.Outcome.next.inj h).symm⟩)))))
      · cases h
    | reset => exact .inr (.inr (.inr (.inr (.inr (.inr ⟨rest, rfl, (Host.Outcome.next.inj h).symm⟩)))))

end Sys2Proof.Machine
end

