-- ==== Sys2Proof/Tests/Slice0.lean ====
section
/-! SUPPORT. Tests of the model against the spec's own words, tables and examples (their source stands in each
comment), and for every statement with hypotheses a witness: a concrete state that meets them all. -/

namespace Sys2Proof.Tests

set_option Elab.async false

open Sys2Proof.Machine

/-! ## Well-formedness: each check refuses an ill-formed term (30_encoding.md R60, R64; 00_scope.md R5) -/

theorem test_reserved_bits_refused : (⟨1, 1, 1⟩ : CommandWord).wellFormed = false := by decide

theorem test_high_half_refused : (CommandWord.ofValue 0x100000011).wellFormed = false := by decide

theorem test_unassigned_function_refused : (⟨3, 1, 0⟩ : CommandWord).functionAssigned = false := by decide

theorem test_assigned_function_accepted : (⟨5, 1, 0⟩ : CommandWord).wellFormed = true := by decide

theorem test_conc_not_a_power_of_two_refused : ({ Params.ofSpec with conc := 3 } : Params).wellFormed = false := by
  decide

theorem test_conc_256_refused : ({ Params.ofSpec with conc := 256 } : Params).wellFormed = false := by decide

theorem test_no_memory_refused : ({ Params.ofSpec with memSize := 0 } : Params).wellFormed = false := by decide

theorem test_too_much_memory_refused :
    ({ Params.ofSpec with memSize := 2 ^ 61 + 1 } : Params).wellFormed = false := by decide

theorem test_params_of_spec_accepted : Params.ofSpec.wellFormed = true := by decide

theorem test_memory_form_refuses_a_zero_byte : ¬ Memory.wf [(3, 0)] := by decide

theorem test_memory_form_refuses_disorder : ¬ Memory.wf [(3, 1), (3, 2)] := by decide

/-! ## Decoding: every word, written out from R63's table as UNIT * 16 + FUNC -/

theorem test_decode_units_0_to_2 :
    decode 0x00 = .ok .sysNop ∧ decode 0x0F = .ok .sysZeroize
    ∧ decode 0x10 = .ok .sm4Init ∧ decode 0x11 = .ok .sm4Enc ∧ decode 0x12 = .ok .sm4Dec
    ∧ decode 0x14 = .ok .sm4Encb ∧ decode 0x15 = .ok .sm4Decb
    ∧ decode 0x20 = .ok .gfInit ∧ decode 0x26 = .ok .gfMul ∧ decode 0x27 = .ok .gfUpd := by decide

theorem test_decode_units_3_to_7 :
    decode 0x30 = .ok .ecbInit ∧ decode 0x31 = .ok .ecbEnc ∧ decode 0x32 = .ok .ecbDec
    ∧ decode 0x40 = .ok .cbcInit ∧ decode 0x41 = .ok .cbcEnc ∧ decode 0x42 = .ok .cbcDec ∧ decode 0x43 = .ok .cbcSetiv
    ∧ decode 0x50 = .ok .cfbInit ∧ decode 0x51 = .ok .cfbEnc ∧ decode 0x52 = .ok .cfbDec
    ∧ decode 0x60 = .ok .ofbInit ∧ decode 0x61 = .ok .ofbXor
    ∧ decode 0x70 = .ok .ctrInit ∧ decode 0x71 = .ok .ctrXor := by decide

theorem test_decode_units_8_to_11 :
    decode 0x80 = .ok .xtsInit ∧ decode 0x81 = .ok .xtsEnc ∧ decode 0x82 = .ok .xtsDec
    ∧ decode 0x90 = .ok .bcInit ∧ decode 0x91 = .ok .bcEnc ∧ decode 0x92 = .ok .bcDec ∧ decode 0x93 = .ok .bcSetiv
    ∧ decode 0xA0 = .ok .ofbnlfInit ∧ decode 0xA1 = .ok .ofbnlfEnc ∧ decode 0xA2 = .ok .ofbnlfDec
    ∧ decode 0xA3 = .ok .ofbnlfSetiv
    ∧ decode 0xB0 = .ok .hctrInit ∧ decode 0xB1 = .ok .hctrEnc ∧ decode 0xB2 = .ok .hctrDec := by decide

theorem test_decode_units_12_to_15 :
    decode 0xC0 = .ok .gcmInit ∧ decode 0xC1 = .ok .gcmSeal ∧ decode 0xC2 = .ok .gcmOpen
    ∧ decode 0xD0 = .ok .ccmInit ∧ decode 0xD1 = .ok .ccmSeal ∧ decode 0xD2 = .ok .ccmOpen
    ∧ decode 0xE0 = .ok .gxmInit ∧ decode 0xE1 = .ok .gxmSeal ∧ decode 0xE2 = .ok .gxmOpen
    ∧ decode 0xF0 = .ok .murInit ∧ decode 0xF1 = .ok .murSeal ∧ decode 0xF2 = .ok .murOpen := by decide

/-- One word bit by bit: the 32 high bits, RSV, UNIT 4 (CBC), FUNC 3 (SETIV) (R60, R62, R63). -/
theorem test_decode_bit_fields :
    decode (0#32 ++ 0#24 ++ 0b0100#4 ++ 0b0011#4) = .ok .cbcSetiv
    ∧ encode .cbcSetiv = 0#32 ++ 0#24 ++ 0b0100#4 ++ 0b0011#4 := by decide

theorem test_decode_refuses_unassigned_words :
    decode 0x13 = .error (.unassignedWord 0x13) ∧ decode 0x62 = .error (.unassignedWord 0x62)
    ∧ decode 0xFF = .error (.unassignedWord 0xFF) := by decide

theorem test_decode_refuses_reserved_bits :
    decode 0x110 = .error .reservedBitsSet ∧ decode 0x8000000000000010 = .error .reservedBitsSet := by decide

theorem test_table_word_drops_bits_above_nbits : decodeTableWord 8 0x171 = some .ctrXor := by decide

/-! ## A small state -/

/-- The state a command or step answers with. -/
def after : Result → State
  | .next t => t
  | _ => State.reset

/-- n bytes put into the memory at a, as one big-endian number. -/
def put (a n v : Nat) (s : State) : State := s.storeBytes a (be n v)

/-- n bytes of the memory at a, as one big-endian number. -/
def get (a n : Nat) (s : State) : Nat := beVal (s.mem.readBytes a n)

/-- Key, IV, message of 95_test_vectors.md (K0, IV0, PT2). -/
def k0 : Block := 0x0123456789ABCDEFFEDCBA9876543210
def iv0 : Block := 0x000102030405060708090A0B0C0D0E0F
def pt2 : Nat := 0xAAAAAAAABBBBBBBBCCCCCCCCDDDDDDDDEEEEEEEEFFFFFFFFAAAAAAAABBBBBBBB

/-- A unit bound with KS0 from K0 and IV0, n bytes of src at 0x40 and room for m at 0x100. -/
def bound (u : ModeUnit) (n m : Nat) : State :=
  { State.reset with
    ks0 := keyExp k0, active := some u, iv := iv0, srcAddr := 0x40, srcLen := BitVec.ofNat 64 n
    dstAddr := 0x100, dstCap := BitVec.ofNat 64 m }

/-- Command i on PT2 as unit u, from IV0: the 32 bytes of dst, IV and KPOS after it. -/
def onPt2 (i : Instr) (u : ModeUnit) (src : Nat) : Nat × Block × Nat :=
  let t := after (exec i (put 0x40 32 src (bound u 32 32)))
  (get 0x100 32 t, t.iv, t.kpos)

/-! ## The algorithms, on the spec's examples -/

/-- 40_sm4.md R95 (V1), the decryption of it. -/
theorem test_sm4_decrypt : decryptBlock (keyExp k0) 0x681EDF34D206965E86B3E94F536E4246 = k0 := by decide +kernel

/-- 95_test_vectors.md V2: the first and last round word of K0. -/
theorem test_round_keys : (keyExp k0).enc.head? = some 0xF12186F9 ∧ (keyExp k0).dec.head? = some 0x9124A012 := by
  decide +kernel

/-- 95_test_vectors.md V4, the row of 01234567. -/
theorem test_word_functions :
    tau 0x01234567 = 0x90F473A2 ∧ linL 0x01234567 = 0xFA26EB37 ∧ linL' 0x01234567 = 0xDA0F34E1
    ∧ mixT 0x01234567 = 0x6EF180C9 ∧ mixT' 0x01234567 = 0xCFC85B85 := by decide +kernel

/-- 41_gf128.md R102's three examples. -/
theorem test_gf_double :
    gfDouble ⟨0x8000000000000000, 0⟩ = ⟨0x4000000000000000, 0⟩ ∧ gfDouble ⟨0, 1⟩ = ⟨0xE100000000000000, 0⟩
    ∧ gfDouble ⟨0xFFFFFFFFFFFFFFFF, 0xFFFFFFFFFFFFFFFF⟩ = ⟨0x9EFFFFFFFFFFFFFF, 0xFFFFFFFFFFFFFFFF⟩ := by decide

/-- 41_gf128.md R106's last example, R107's and R108's. -/
theorem test_gf_mul :
    gfMul (tableBuild 0x2677F46B09C122CC975533105BD4A22A) ⟨0x0001020304050607, 0x08090A0B0C0D0E0F⟩
      = ⟨0xB9FA0D5121996352, 0xA6B3B80328FC40DA⟩ := by decide +kernel

theorem test_gf_update :
    gfUpdate (tableBuild 0x2677F46B09C122CC975533105BD4A22A) Elem.zero [1, 2, 3, 4, 5]
      = ⟨0x606D8EE7C84E2C66, 0x5486C17655613CB2⟩ := by decide +kernel

theorem test_ghash :
    ghash (tableBuild 0x2677F46B09C122CC975533105BD4A22A) [0xFE, 0xED, 0xFA, 0xCE] [1]
      = 0x368D9239077F2635D4F42D8E10C814B1 := by decide +kernel

/-- 44_xts_hctr.md R183's three examples. -/
theorem test_xts_doubling :
    xtsMul2Ieee 0x80000000000000000000000000000000 = 0x00010000000000000000000000000000
    ∧ xtsMul2Ieee 0x80 = 0x87000000000000000000000000000000
    ∧ xtsMul2Ieee 0xFFFFFFFFFFFFFFFFFFFFFFFFFFFFFFFF = 0x79FFFFFFFFFFFFFFFFFFFFFFFFFFFFFF := by decide

/-- 43_block_stream_modes.md R164's example, and the wraps of it and of 42_gcm.md R124. -/
theorem test_increments :
    inc128 0xFFFFFFFF = 0x100000000 ∧ inc128 0xFFFFFFFFFFFFFFFFFFFFFFFFFFFFFFFF = 0
    ∧ inc32 0x000102030405060708090A0BFFFFFFFF = 0x000102030405060708090A0B00000000 := by decide

/-- 42_gcm.md R123's two examples. -/
theorem test_gcm_j0 :
    let p := tableBuild 0x2677F46B09C122CC975533105BD4A22A
    gcmJ0 p (be 12 0x00001234567800000000ABCD) = 0x00001234567800000000ABCD00000001
    ∧ gcmJ0 p [1, 2, 3, 4, 5, 6, 7, 8] = 0xAF727400762FE300832C5E1151BE2D09 := by decide +kernel

/-- 95_test_vectors.md V50: B0, the aad block and A0. -/
theorem test_ccm_formatting :
    let nonce := be 13 0x00000003020100A0A1A2A3A4A5
    let aad : Bytes := [0, 1, 2, 3, 4, 5, 6, 7]
    beVal (ccmB0 8 nonce aad 23) = 0x5900000003020100A0A1A2A3A4A50017
    ∧ beVal (ccmFormatAad aad) = 0x00080001020304050607000000000000
    ∧ ccmCounter nonce 0 = 0x0100000003020100A0A1A2A3A4A50000 := by decide +kernel

/-! ## The commands, on the spec's examples -/

/-- 46_sys.md R230: NOP clears ERR and OUT_LEN. -/
theorem test_sys_nop :
    after (exec .sysNop { State.reset with err := some .keySize, outLen := 9 }) = State.reset := by decide

/-- 46_sys.md R231: ZEROIZE keeps SRC_ADDR. -/
theorem test_sys_zeroize :
    after (exec .sysZeroize { State.reset with tblV := true, y := ⟨1, 2⟩, spos := 3, kpos := 4, srcAddr := 5 })
      = { State.reset with srcAddr := 5 } := by decide

/-- 95_test_vectors.md P1 step 1: the schedule of K0 is loaded, STATUS 0x0200. -/
theorem test_sm4_init :
    let t := after (exec .sm4Init { put 0x100 16 k0.toNat State.reset with keyAddr := 0x100, keyLen := 16 })
    t.ks0 = keyExp k0 ∧ statusReg t = 0x0200 := by decide +kernel

/-- 95_test_vectors.md V6 row 12: a wrong key size is recoverable, the old key stays. -/
theorem test_sm4_init_key_size :
    let t := after (exec .sm4Init { bound .ecb 0 0 with active := none, keyLen := 32 })
    t.ks0 = keyExp k0 ∧ statusReg t = 0x0213 := by decide +kernel

/-- 95_test_vectors.md V1 and P1. -/
theorem test_sm4_enc :
    get 0x100 16 (after (exec .sm4Enc (put 0x40 16 k0.toNat (bound .ecb 16 16)))) = 0x681EDF34D206965E86B3E94F536E4246 := by
  decide +kernel

/-- 95_test_vectors.md V6 row 5: an inexact overlap stops the core, and nothing is written. -/
theorem test_sm4_enc_overlap :
    let t := after (exec .sm4Enc { bound .ecb 16 16 with active := none, dstAddr := 0x48 })
    statusReg t = 0x0304 ∧ t.mem = [] := by decide +kernel

theorem test_sm4_dec :
    get 0x100 16 (after (exec .sm4Dec (put 0x40 16 0x681EDF34D206965E86B3E94F536E4246 (bound .ecb 16 16)))) = k0.toNat := by
  decide +kernel

/-- 95_test_vectors.md V5, the last block of the four. -/
theorem test_sm4_encb :
    get 0x130 16 (after (exec .sm4Encb (put 0x70 16 0x303132333435363738393A3B3C3D3E3F (bound .ecb 64 64))))
      = 0xD55BFD68E7901219F41FAB48427AB58D := by decide +kernel

theorem test_sm4_decb :
    get 0x130 16 (after (exec .sm4Decb (put 0x70 16 0xD55BFD68E7901219F41FAB48427AB58D (bound .ecb 64 64))))
      = 0x303132333435363738393A3B3C3D3E3F := by decide +kernel

/-- 41_gf128.md R110's example: the element 1 gives P[j] = the nibble j in low[63:60]. -/
theorem test_gf_init :
    let t := after (exec .gfInit { put 0 1 0x80 State.reset with auxLen := 16 })
    t.tbl.getD 11 Elem.zero = ⟨0xB000000000000000, 0⟩ ∧ statusReg t = 0x0800 := by decide +kernel

/-- 95_test_vectors.md P5 steps 9 to 11. -/
theorem test_gf_mul_command :
    (after (exec .gfMul { State.reset with
      tblV := true, tbl := tableBuild 0x2677F46B09C122CC975533105BD4A22A, y := ⟨0x8000000000000000, 0⟩ })).y
      = ⟨0x2677F46B09C122CC, 0x975533105BD4A22A⟩ := by decide +kernel

/-- 95_test_vectors.md P5 steps 2 to 4. -/
theorem test_gf_upd :
    (after (exec .gfUpd { put 0x10 4 0xFEEDFACE State.reset with
      tblV := true, tbl := tableBuild 0x2677F46B09C122CC975533105BD4A22A, srcAddr := 0x10, srcLen := 4 })).y
      = ⟨0x14F7F80CBFA20888, 0x8FD4AE4614BD3F05⟩ := by decide +kernel

/-- 43_block_stream_modes.md R145. -/
theorem test_ecb_init :
    after (exec .ecbInit { State.reset with ks0 := ⟨true, [], []⟩, iv := 7, kpos := 3, active := some .cfb })
      = { State.reset with ks0 := ⟨true, [], []⟩, active := some .ecb } := by decide

/-- 43_block_stream_modes.md R141 for each unit that has it: bound, IV loaded, KPOS 16. -/
theorem test_iv_inits :
    ∀ p ∈ [(Instr.cbcInit, ModeUnit.cbc), (.cfbInit, .cfb), (.ofbInit, .ofb), (.ctrInit, .ctr), (.bcInit, .bc),
        (.ofbnlfInit, .ofbnlf)],
      let t := after (exec p.1 { put 2 16 iv0.toNat State.reset with
        ks0 := ⟨true, [], []⟩, ivAddr := 2, ivLen := 16, kpos := 3 })
      t.active = some p.2 ∧ t.iv = iv0 ∧ t.kpos = 16 ∧ t.err = none := by decide +kernel

/-- 43_block_stream_modes.md R144: no schedule is needed, and another unit's SETIV is out of sequence. -/
theorem test_setivs :
    ∀ p ∈ [(Instr.cbcSetiv, ModeUnit.cbc), (.bcSetiv, .bc), (.ofbnlfSetiv, .ofbnlf)],
      let s := { put 2 16 iv0.toNat State.reset with active := some p.2, ivAddr := 2, ivLen := 16 }
      (after (exec p.1 s)).iv = iv0 ∧ (after (exec p.1 { s with active := some .ecb })).err = some .seq := by
  decide +kernel

/-- 95_test_vectors.md V30, row by row: output, IV and KPOS. -/
theorem test_ecb_enc :
    (onPt2 .ecbEnc .ecb pt2).1 = 0x5EC8143DE509CFF7B5179F8F474B86192F1D305A7FB17DF985F81C8482192304 := by
  decide +kernel

theorem test_ecb_dec :
    (onPt2 .ecbDec .ecb 0x5EC8143DE509CFF7B5179F8F474B86192F1D305A7FB17DF985F81C8482192304).1 = pt2 := by
  decide +kernel

theorem test_cbc_enc :
    onPt2 .cbcEnc .cbc pt2 =
      (0x78EBB11CC40B0A48312AAEB2040244CB4CB7016951909226979B0D15DC6A8F6D, 0x4CB7016951909226979B0D15DC6A8F6D, 16) := by
  decide +kernel

theorem test_cbc_dec :
    onPt2 .cbcDec .cbc 0x78EBB11CC40B0A48312AAEB2040244CB4CB7016951909226979B0D15DC6A8F6D =
      (pt2, 0x4CB7016951909226979B0D15DC6A8F6D, 16) := by decide +kernel

theorem test_cfb_enc :
    onPt2 .cfbEnc .cfb pt2 =
      (0xAC3236CB861DD316E6413B4E3C7524B769D4C54ED433B9A0346009BEB37B2B3F, 0x69D4C54ED433B9A0346009BEB37B2B3F, 16) := by
  decide +kernel

theorem test_cfb_dec :
    onPt2 .cfbDec .cfb 0xAC3236CB861DD316E6413B4E3C7524B769D4C54ED433B9A0346009BEB37B2B3F =
      (pt2, 0x69D4C54ED433B9A0346009BEB37B2B3F, 16) := by decide +kernel

/-- 43_block_stream_modes.md R155's example in two commands: IV, KSB and KPOS after the first 5 bytes. -/
theorem test_cfb_partial_block :
    let t := after (exec .cfbEnc (put 0x40 5 0xAAAAAAAABB (bound .cfb 5 5)))
    get 0x100 5 t = 0xAC3236CB86 ∧ t.iv = 0xAC3236CB8605060708090A0B0C0D0E0F
    ∧ t.ksb = 0x06989C613DA668AD2A8DF782E1A8F96A ∧ t.kpos = 5 := by decide +kernel

theorem test_ofb_xor :
    onPt2 .ofbXor .ofb pt2 =
      (0xAC3236CB861DD316E6413B4E3C7524B71D01ACA2487CA582CBF5463E6698539B, 0xF3EF424CB7835A7D615FEC94DD23E820, 16) := by
  decide +kernel

theorem test_ctr_xor :
    onPt2 .ctrXor .ctr pt2 =
      (0xAC3236CB861DD316E6413B4E3C7524B781E9E3A5BF5C03FE703BB94F3ABB16A1, 0x000102030405060708090A0B0C0D0E11, 16) := by
  decide +kernel

theorem test_bc_enc :
    onPt2 .bcEnc .bc pt2 =
      (0x78EBB11CC40B0A48312AAEB2040244CB85C6593900C4EAF56FFD2358A7864D46, 0xFD2CEA26C0CAE6BA56DE87E1AF890782, 16) := by
  decide +kernel

theorem test_bc_dec :
    onPt2 .bcDec .bc 0x78EBB11CC40B0A48312AAEB2040244CB85C6593900C4EAF56FFD2358A7864D46 =
      (pt2, 0xFD2CEA26C0CAE6BA56DE87E1AF890782, 16) := by decide +kernel

theorem test_ofbnlf_enc :
    onPt2 .ofbnlfEnc .ofbnlf pt2 =
      (0xC450DE5EF0324545D38EB1B55524B09C4962B2C18B152B0F43A88BC661F63A23, 0xF3EF424CB7835A7D615FEC94DD23E820, 16) := by
  decide +kernel

theorem test_ofbnlf_dec :
    onPt2 .ofbnlfDec .ofbnlf 0xC450DE5EF0324545D38EB1B55524B09C4962B2C18B152B0F43A88BC661F63A23 =
      (pt2, 0xF3EF424CB7835A7D615FEC94DD23E820, 16) := by decide +kernel

/-- XTS bound with 95_test_vectors.md V40's key and tweak, for a sector of n bytes. -/
def xts (n : Nat) : State :=
  { put 0x20 1 1 (bound .xts n n) with ks1 := keyExp 0xFEDCBA98765432100123456789ABCDEF, ivAddr := 0x20, ivLen := 16, iv := 0 }

/-- 44_xts_hctr.md R181: the dialect that is not provided is refused. -/
theorem test_xts_init :
    let s := { State.reset with keyLen := 32 }
    (after (exec .xtsInit s)).err = none
    ∧ (after (exec .xtsInit { s with cfgDialect := 1 })).err = some .unsupported := by decide +kernel

/-- 44_xts_hctr.md R185's example of 17 bytes. -/
theorem test_xts_enc_stealing :
    get 0x100 17 (after (exec .xtsEnc (put 0x40 17 0x404142434445464748494A4B4C4D4E4F50 (xts 17))))
      = 0xE3F995BF5564C6AC6D9B451DB91ED1C0C1 := by decide +kernel

theorem test_xts_dec_stealing :
    get 0x100 17 (after (exec .xtsDec (put 0x40 17 0xE3F995BF5564C6AC6D9B451DB91ED1C0C1 (xts 17))))
      = 0x404142434445464748494A4B4C4D4E4F50 := by decide +kernel

/-- HCTR bound with scenario E's key, tweak and hash key, for n bytes. -/
def hctr (n : Nat) : State :=
  { bound .hctr n n with
    ks0 := keyExp 0x2B7E151628AED2A6ABF7158809CF4F3C, iv := 0xF0F1F2F3F4F5F6F7F8F9FAFBFCFDFEFF
    tblV := true, tbl := tableBuild iv0 }

/-- 44_xts_hctr.md R190. -/
theorem test_hctr_init :
    let t := after (exec .hctrInit { put 0 1 0x80 (put 0x20 16 iv0.toNat State.reset) with
      ks0 := ⟨true, [], []⟩, auxLen := 16, ivAddr := 0x20, ivLen := 16 })
    t.iv = iv0 ∧ t.active = some .hctr ∧ t.tblV = true ∧ t.tbl.getD 11 Elem.zero = ⟨0xB000000000000000, 0⟩ := by
  decide +kernel

/-- GMSM scenario E (44_xts_hctr.md R194). -/
theorem test_hctr_enc :
    get 0x100 16 (after (exec .hctrEnc (put 0x40 16 0x6BC1BEE22E409F96E93D7E117393172A (hctr 16))))
      = 0xB7B1DD75F608012DC69621D4EA720A60 := by decide +kernel

theorem test_hctr_dec :
    get 0x100 16 (after (exec .hctrDec (put 0x40 16 0xB7B1DD75F608012DC69621D4EA720A60 (hctr 16))))
      = 0x6BC1BEE22E409F96E93D7E117393172A := by decide +kernel

/-- GCM bound with K0 and a 12-byte nonce at 0x10, tag size t. -/
def gcm (n m : Nat) (t : BitVec 8) : State :=
  { put 0x10 12 0x00001234567800000000ABCD (bound .gcm n m) with
    tblV := true, tbl := tableBuild 0x2677F46B09C122CC975533105BD4A22A, ivAddr := 0x10, ivLen := 12, nonceLenL := 12
    tagLenL := t, iv := 0 }

/-- GMSM scenario B's aad and plaintext (95_test_vectors.md P2). -/
def aadB (s : State) : State :=
  { put 0x20 20 0xFEEDFACEDEADBEEFFEEDFACEDEADBEEFABADDAD2 s with aadAddr := 0x20, aadLen := 20 }
def ptB : Nat :=
  0xAAAAAAAAAAAAAAAABBBBBBBBBBBBBBBBCCCCCCCCCCCCCCCCDDDDDDDDDDDDDDDDEEEEEEEEEEEEEEEEFFFFFFFFFFFFFFFFEEEEEEEEEEEEEEEEAAAAAAAAAAAAAAAA

/-- 42_gcm.md R121's example. -/
theorem test_gcm_init :
    let t := after (exec .gcmInit { bound .ecb 0 0 with cfgTagLen := 16, ivLen := 12 })
    t.tbl = tableBuild 0x2677F46B09C122CC975533105BD4A22A ∧ t.tagLenL = 16 ∧ t.nonceLenL = 12 ∧ statusReg t = 0xCA00 := by
  decide +kernel

/-- GMSM scenario B (95_test_vectors.md V20): the first and last 16 bytes of the 80. -/
theorem test_gcm_seal :
    let t := after (exec .gcmSeal (aadB (put 0x40 64 ptB (gcm 64 80 16))))
    get 0x100 16 t = 0x17F399F08C67D5EE19D0DC9969C4BB7D ∧ get 0x140 16 t = 0x83DE3541E4C2B58177E065A9BF7B62EC
    ∧ t.outLen = 80 := by decide +kernel

/-- 42_gcm.md R130, R132: an all-zero input does not verify, and dst is zero-filled. -/
theorem test_gcm_open_mismatch :
    let t := after (exec .gcmOpen (put 0x100 3 0x010203 (gcm 18 2 16)))
    get 0x100 3 t = 0x03 ∧ t.err = some .auth ∧ t.fault = false := by decide +kernel

/-- CCM bound with K0 and scenario C's nonce, tag size 8. -/
def ccm (n m : Nat) : State :=
  { put 0x10 13 0x00000003020100A0A1A2A3A4A5 (bound .ccm n m) with
    ivAddr := 0x10, ivLen := 13, nonceLenL := 13, tagLenL := 8, iv := 0 }

theorem test_ccm_init :
    (after (exec .ccmInit { bound .ecb 0 0 with cfgTagLen := 8, ivLen := 13 })).nonceLenL = 13
    ∧ (after (exec .ccmInit { bound .ecb 0 0 with cfgTagLen := 9, ivLen := 13 })).err = some .tagSize := by
  decide +kernel

/-- 95_test_vectors.md P7 (V50), aad included. -/
theorem test_ccm_seal :
    let t := after (exec .ccmSeal { put 0x20 8 0x0001020304050607
      (put 0x40 23 0x08090A0B0C0D0E0F101112131415161718191A1B1C1D1E (ccm 23 31)) with aadAddr := 0x20, aadLen := 8 })
    get 0x100 31 t = 0x6713C376E48C54DF93BDEC191641446E3FF5D5D00C9E6A7ACE5C54FCCCB889 := by decide +kernel

/-- 95_test_vectors.md V52's third row opened: the same with no aad. -/
theorem test_ccm_open :
    let t := after (exec .ccmOpen
      (put 0x40 31 0x6713C376E48C54DF93BDEC191641446E3FF5D5D00C9E6A73AAFE5C1CD289D4 (ccm 31 23)))
    get 0x100 23 t = 0x08090A0B0C0D0E0F101112131415161718191A1B1C1D1E ∧ t.err = none ∧ t.outLen = 23 := by
  decide +kernel

/-- 45_ccm_gxm_mur.md R212, R220: without the stream parameter the INIT is unsupported; its tag size comes first. -/
theorem test_gxm_init :
    let s := { State.reset with auxLen := 16, cfgTagLen := 8 }
    (after (exec .gxmInit s)).err = some .unsupported
    ∧ (after (exec .gxmInit { s with cfgTagLen := 7 })).err = some .tagSize
    ∧ (after (exec .gxmInit { s with params := { Params.ofSpec with hasGxmKs := true } })).active = some .gxm := by
  decide +kernel

theorem test_mur_init :
    let s := { State.reset with auxLen := 16, cfgTagLen := 16 }
    (after (exec .murInit s)).err = some .unsupported
    ∧ (after (exec .murInit { s with auxLen := 15 })).err = some .keySize
    ∧ (after (exec .murInit { s with params := { Params.ofSpec with hasStreamNew := true } })).active = some .mur := by
  decide +kernel

/-- GXM or MUR bound with a table, tag size 8. -/
def stream (u : ModeUnit) (n m : Nat) : State :=
  { bound u n m with tblV := true, tbl := tableBuild 0x2677F46B09C122CC975533105BD4A22A, tagLenL := 8, iv := 0 }

/-- 45_ccm_gxm_mur.md R214: the stream advances by tag and data, whatever its bytes. -/
theorem test_gxm_seal :
    let t := after (exec .gxmSeal (stream .gxm 5 13))
    t.spos = 13 ∧ t.outLen = 13 ∧ t.err = none := by decide +kernel

/-- 45_ccm_gxm_mur.md R215: an input shorter than the tag is no fault, and the stream stays. -/
theorem test_gxm_open_short :
    let t := after (exec .gxmOpen (stream .gxm 7 7))
    t.err = some .auth ∧ t.fault = false ∧ t.spos = 0 := by decide +kernel

/-- 45_ccm_gxm_mur.md R224, R225: an IV of more than 32 bytes is a class P error. -/
theorem test_mur_iv_len :
    (after (exec .murSeal { stream .mur 0 8 with ivLen := 33 })).err = some .ivLen
    ∧ (after (exec .murOpen { stream .mur 8 0 with ivLen := 33 })).fault = true := by decide +kernel

theorem test_mur_open_short : (after (exec .murOpen (stream .mur 7 7))).err = some .auth := by decide +kernel

/-- 45_ccm_gxm_mur.md R222, R223: the two stream IVs of a 20-byte iv. -/
theorem test_mur_stream_ivs :
    murTagIv .literal (be 16 0) (be 20 0x0102) = zeros 20
    ∧ murTagIv .zeroExtended (be 16 0) (be 20 0x0102) = be 20 0x0102
    ∧ murDataIv (be 20 0x0102) (be 4 0xFF000000) = be 20 0xFF00000000000000000000000000000000000102 := by
  decide +kernel

/-! ## The host's accesses -/

/-- 10_state.md R19, 95_test_vectors.md V64: INFO of a core with CONC 4. -/
theorem test_info : State.reset.readReg 18 = 0x11004 := by decide

/-- 10_state.md R18: CFG's reserved bits ignore the write. -/
theorem test_cfg_write : (State.reset.writeReg 14 0xFFFF).readReg 14 = 0x1FF := by decide

/-- 30_encoding.md R64, 95_test_vectors.md P4: an illegal word stops the core, and a later command is ignored. -/
theorem test_illegal_then_ignored :
    let s := { State.reset with pending := [.writeReg 0 0x13, .writeReg 0 0x00] }
    statusReg (after (step s)) = 0x0109 ∧ statusReg (after (step (after (step s)))) = 0x0109 := by decide

theorem test_with_fetch_word : (after (step (State.reset.withFetchWord 8 0x11))).err = some .seq := by decide

/-- 20_memory.md R40: an address at MEM_SIZE does not exist. -/
theorem test_no_such_address :
    step { State.reset with pending := [.loadByte (2 ^ 32)] } = .fault (.noSuchAddress (2 ^ 32)) := rfl

/-! ## Witnesses: a state that meets the hypotheses of each statement, clause by clause -/

/-- A core whose host has one access still to make. -/
def port (e : HostEvent) : State := { State.reset with pending := [e] }

theorem wit_DecodeAndEncodeAgree : decode 0x14 = .ok .sm4Encb := by decide

theorem wit_StepRunsTheDecodedCommand :
    (port (.writeReg 0 0x71)).pending = .writeReg 0 0x71 :: [] ∧ decode 0x71 = .ok .ctrXor
    ∧ decodeTableWord 8 0x71 = some .ctrXor := ⟨rfl, by decide, by decide⟩

theorem wit_OtherWordsRaiseIllegal :
    (∀ v : DWord, (port (.writeReg 0 v)).pending = .writeReg 0 v :: [] ∧ (port (.writeReg 0 v)).fault = false)
    ∧ ∀ v ∈ [0x13, 0xF3, 0x100, 0x8000000000000000],
      v ∉ [0x00, 0x0F, 0x10, 0x11, 0x12, 0x14, 0x15, 0x20, 0x26, 0x27, 0x30, 0x31, 0x32, 0x40, 0x41, 0x42, 0x43,
        0x50, 0x51, 0x52, 0x60, 0x61, 0x70, 0x71, 0x80, 0x81, 0x82, 0x90, 0x91, 0x92, 0x93, 0xA0, 0xA1, 0xA2, 0xA3,
        0xB0, 0xB1, 0xB2, 0xC0, 0xC1, 0xC2, 0xD0, 0xD1, 0xD2, 0xE0, 0xE1, 0xE2, 0xF0, 0xF1, 0xF2] :=
  ⟨fun _ => ⟨rfl, rfl⟩, by decide +kernel⟩

/-- Every clause: any register number, 0 to 21 and beyond. -/
theorem wit_HostReadsRegisters (no : Nat) :
    (port (.readReg no)).pending = .readReg no :: [] ∧ (port (.readReg no)).params.wellFormed = true :=
  ⟨rfl, rfl⟩

/-- Every clause: each error or none, each bound unit or none. -/
theorem wit_StatusShowsItsFields (e : Option Err) (u : Option ModeUnit) :
    let s := { port (.readReg 1) with err := e, active := u }
    s.pending = .readReg 1 :: [] ∧ s.err = e ∧ s.active = u := ⟨rfl, rfl, rfl⟩

theorem wit_HostWritesRegisters :
    ∀ no ∈ [1, 2, 3, 4, 5, 6, 7, 8, 9, 10, 11, 12, 13, 14, 15, 16, 17, 18, 19, 20, 21],
      no ≠ 0 ∧ (port (.writeReg no 5)).pending = .writeReg no 5 :: [] := by decide

/-- The first and the last address that exist, and the first that does not. -/
theorem wit_HostAccessesMemory :
    (∀ a ∈ [0, 2 ^ 32 - 1],
      (port (.storeByte a 1)).mem.wf ∧ (port (.storeByte a 1)).pending = .storeByte a 1 :: []
      ∧ (port (.loadByte a)).pending = .loadByte a :: [] ∧ a < State.reset.params.memSize)
    ∧ State.reset.params.memSize ≤ 2 ^ 32 := by decide

theorem wit_ResetEventResets : (port .reset).pending = .reset :: [] := rfl

/-- A state with the invariant, other than the reset state, in which a step is taken. -/
theorem wit_EveryStepKeepsTheInvariant :
    let s := { port (.writeReg 3 7) with
      ks0 := keyExp k0, tblV := true, tbl := tableBuild (encryptBlock (keyExp k0) 0), active := some .gcm
      tagLenL := 12, nonceLenL := 1, err := some .keySize, mem := [(2 ^ 32 - 1, 1)] }
    Inv s ∧ step s = .next (after (step s)) :=
  ⟨⟨by decide, by decide, by decide, .inr ⟨k0, rfl⟩, .inl rfl, .inr ⟨rfl, _, rfl⟩,
    ⟨by simp [port, State.reset, isClassP], by decide, fun _ => rfl⟩, by decide,
    ⟨rfl, rfl, rfl, by decide, by decide, by decide, rfl, ⟨rfl, rfl⟩, ⟨rfl, rfl⟩⟩⟩, rfl⟩

theorem wit_CommandsChangeOnlyWhatTheyMay :
    exec .sysNop State.reset = .next (after (exec .sysNop State.reset))
    ∧ writesY .sysNop = false ∧ writesKs0 .sysNop = false ∧ writesKs1 .sysNop = false ∧ writesTbl .sysNop = false
    ∧ rebinds .sysNop = false ∧ runsIv .sysNop = false ∧ runsKpos .sysNop = false ∧ runsKsb .sysNop = false
    ∧ runsSpos .sysNop = false ∧ writesDst .sysNop = false := ⟨rfl, by decide⟩

theorem wit_FaultedCoreIgnoresCommands (no : Nat) (v : DWord) :
    let s := fun e => { port e with fault := true, err := some .seq }
    (s (.writeReg 0 v)).fault = true ∧ (s (.writeReg 0 v)).pending = .writeReg 0 v :: []
    ∧ (s (.readReg no)).pending = .readReg no :: []
    ∧ (s (.writeReg (no + 1) v)).pending = .writeReg (no + 1) v :: [] ∧ no + 1 ≠ 0 := ⟨rfl, rfl, rfl, rfl, by omega⟩

theorem wit_OnlyResetClearsFault :
    let s := { port .reset with fault := true, err := some .seq }
    step s = .next (after (step s)) ∧ s.fault = true ∧ (after (step s)).fault = false := ⟨rfl, rfl, by decide⟩

/-- An error of class P, one of class R, a short OPEN input and an OPEN whose tag does not match. -/
theorem wit_ErrorsHaveExactlyTheirEffects :
    (∀ s ∈ [State.reset, gcm 15 16 16, gcm 16 16 16], s.mem.wf ∧ s.fault = false)
    ∧ (after (exec .sm4Enc State.reset)).err = some .seq ∧ isClassP .seq = true
    ∧ (after (exec .sm4Init State.reset)).err = some .keySize ∧ isClassP .keySize = false
    ∧ (after (exec .gcmOpen (gcm 15 16 16))).err = some .auth
    ∧ (gcm 15 16 16).srcLen.toNat < (gcm 15 16 16).tagLenL.toNat
    ∧ (after (exec .gcmOpen (gcm 16 16 16))).err = some .auth
    ∧ (gcm 16 16 16).tagLenL.toNat ≤ (gcm 16 16 16).srcLen.toNat := by decide +kernel

/-- Each error of R247's order is the first raised somewhere; and a state in which none is. -/
theorem wit_FirstFailingCheckIsReported :
    let ready := { bound .xts 16 16 with ks1 := ⟨true, [], []⟩, ivLen := 16 }
    (∀ p ∈ [(Instr.sm4Enc, State.reset, Err.seq), (.sm4Init, State.reset, .keySize),
        (.gxmInit, { State.reset with auxLen := 16 }, .tagSize),
        (.gcmInit, { bound .ecb 0 0 with cfgTagLen := 12 }, .nonceSize),
        (.gxmInit, { State.reset with auxLen := 16, cfgTagLen := 8 }, .unsupported),
        (.cbcInit, bound .ecb 0 0, .ivLen), (.gcmSeal, { gcm 0 0 12 with ivLen := 11 }, .nonceLen),
        (.gcmOpen, gcm 11 0 12, .auth), (.xtsEnc, { ready with srcLen := 15 }, .srcShort),
        (.ecbEnc, bound .ecb 15 16, .notBlocks), (.xtsEnc, { ready with srcLen := 0x1000000 }, .tooLong),
        (.xtsEnc, { ready with dstCap := 15 }, .dstShort),
        (.xtsEnc, { ready with srcAddr := 0xFFFFFFF1 }, .bus),
        (.xtsEnc, { ready with dstAddr := 0x41 }, .overlap)],
      p.2.1.fault = false ∧ firstRaised p.1 p.2.1 = some p.2.2)
    ∧ ready.fault = false ∧ firstRaised .xtsEnc ready = none := by decide +kernel

theorem wit_CommandsRaiseOnlyTheirErrors :
    State.reset.fault = false ∧ exec .sm4Enc State.reset = .next (after (exec .sm4Enc State.reset))
    ∧ (after (exec .sm4Enc State.reset)).err = some .seq := ⟨rfl, rfl, by decide⟩

theorem wit_AfterResetDataCommandsEndInSeq :
    needsKs0 .sm4Enc = true ∧ needsTbl .gfMul = true ∧ unitOf .cbcSetiv ≠ none := by decide

theorem wit_WritesStayInsideDst :
    let s := bound .ecb 16 16
    s.mem.wf ∧ exec .sm4Enc s = .next (after (exec .sm4Enc s)) ∧ s.fault = false
    ∧ (after (exec .sm4Enc s)).err = none := ⟨by decide, rfl, rfl, by decide +kernel⟩

theorem wit_SystemCommandsComplete :
    State.reset.fault = false ∧ ({ State.reset with fault := true } : State).fault = true := by decide

theorem wit_BlockFunctionIsTheRecurrence : (keyExp k0).enc.length = 32 := by decide +kernel

/-- The last address at which the operand fits. -/
theorem wit_Sm4InitCompletes :
    let s := { State.reset with keyLen := 16, keyAddr := 0xFFFFFFF0 }
    s.fault = false ∧ s.keyLen.toNat = 16 ∧ InMemory s s.keyAddr.toNat 16 := by decide

theorem wit_Sm4DataCommandsComplete :
    let s := { bound .ecb 64 64 with active := none, dstAddr := 0xFFFFFFC0 }
    s.mem.wf ∧ s.fault = false ∧ s.ks0.valid = true ∧ 16 ≤ s.srcLen.toNat ∧ Windows s 16 16
    ∧ 16 * s.params.conc ≤ s.srcLen.toNat ∧ Windows s (16 * s.params.conc) (16 * s.params.conc) := by decide +kernel

theorem wit_GhashIsAffine : ([1, 2] : Bytes).length = ([3, 4] : Bytes).length ∧ ([5] : Bytes).length = ([6] : Bytes).length :=
  ⟨rfl, rfl⟩

/-- The state in which GF.INIT finds a unit bound. -/
def gfInit (u : Option ModeUnit) : State := { State.reset with active := u, auxLen := 16, auxAddr := 0xFFFFFFF0 }

/-- Each unit that owns the table, and others. -/
theorem wit_GfInitCompletes :
    (∀ u ∈ [some ModeUnit.hctr, some .gcm, some .gxm, some .mur, none, some .ecb, some .ccm, some .xts],
      (gfInit u).fault = false ∧ (gfInit u).auxLen.toNat = 16 ∧ InMemory (gfInit u) (gfInit u).auxAddr.toNat 16)
    ∧ (∀ u ∈ [some ModeUnit.hctr, some .gcm, some .gxm, some .mur],
        (gfInit u).active ∈ [some ModeUnit.hctr, some .gcm, some .gxm, some .mur])
    ∧ ∀ u ∈ [none, some ModeUnit.ecb, some .ccm, some .xts],
        (gfInit u).active ∉ [some ModeUnit.hctr, some .gcm, some .gxm, some .mur] := by decide

theorem wit_GfDataCommandsComplete :
    let s := { State.reset with tblV := true, tbl := tableBuild k0, srcAddr := 0xFFFFFFEF, srcLen := 17 }
    s.fault = false ∧ s.tblV = true ∧ s.tbl = tableBuild k0 ∧ InMemory s s.srcAddr.toNat s.srcLen.toNat :=
  ⟨rfl, rfl, rfl, by decide⟩

theorem wit_ModeInitsComplete :
    let s := { bound .ecb 0 0 with ivLen := 16, ivAddr := 0xFFFFFFF0 }
    s.fault = false ∧ s.ks0.valid = true ∧ s.ivLen.toNat = 16 ∧ InMemory s s.ivAddr.toNat 16 := by decide

theorem wit_SetIvsComplete :
    ∀ u ∈ [ModeUnit.cbc, .bc, .ofbnlf],
      let s := { State.reset with active := some u, ivLen := 16, ivAddr := 0xFFFFFFF0 }
      s.fault = false ∧ s.ivLen.toNat = 16 ∧ InMemory s s.ivAddr.toNat 16 ∧ s.active = some u := by decide

/-- No block, one block, and several. -/
theorem wit_BlockCommandsComplete (u : ModeUnit) :
    ∀ n ∈ [0, 16, 192], (bound u n n).mem.wf ∧ BlockReady u (bound u n n) := by
  cases u <;> decide +kernel

/-- Any unit of bytes, at the ends of KPOS, with no byte and with many. -/
theorem wit_StreamCommandsComplete (u : ModeUnit) :
    ∀ n ∈ [0, 1, 17], ∀ k ∈ [0, 16],
      let s := { bound u n n with kpos := k }
      s.mem.wf ∧ StreamReady u s ∧ s.kpos ≤ 16 := by
  cases u <;> decide +kernel

/-- The two dialects. -/
theorem wit_XtsInitCompletes :
    ∀ d ∈ [0, 1],
      let s := { State.reset with
        keyLen := 32, keyAddr := 0xFFFFFFE0, cfgDialect := BitVec.ofNat 1 d, params := { Params.ofSpec with hasXtsGbMul2 := true } }
      s.fault = false ∧ s.keyLen.toNat = 32 ∧ InMemory s s.keyAddr.toNat 32
      ∧ (s.cfgDialect = 1 → s.params.hasXtsGbMul2 = true) := by decide

/-- The shortest sector, the shortest with stealing, and the longest. -/
theorem wit_XtsCommandsComplete :
    ∀ n ∈ [16, 17, 2 ^ 24 - 1], XtsReady { xts n with dstAddr := 0x40 } ∧ (xts n).mem.wf := by decide +kernel

theorem wit_HctrInitCompletes :
    let s := { bound .ecb 0 0 with auxLen := 16, ivLen := 16, ivAddr := 0xFFFFFFF0, auxAddr := 0 }
    s.fault = false ∧ s.ks0.valid = true ∧ s.auxLen.toNat = 16 ∧ s.ivLen.toNat = 16
    ∧ InMemory s s.ivAddr.toNat 16 ∧ InMemory s s.auxAddr.toNat 16 := by decide

theorem wit_HctrCommandsComplete : ∀ n ∈ [16, 33], (hctr n).mem.wf ∧ HctrReady (hctr n) := by decide +kernel

/-- The ends of the tag and nonce ranges of the four units. -/
theorem wit_gcm_init :
    ∀ t ∈ [12, 16],
      let s := { bound .ecb 0 0 with cfgTagLen := BitVec.ofNat 8 t, ivLen := 1 }
      s.fault = false ∧ s.ks0.valid = true ∧ 12 ≤ s.cfgTagLen.toNat ∧ s.cfgTagLen.toNat ≤ 16
      ∧ s.ivLen.toNat ≠ 0 := by decide

theorem wit_ccm_init :
    ∀ t ∈ [4, 16], ∀ n ∈ [7, 13],
      let s := { bound .ecb 0 0 with cfgTagLen := BitVec.ofNat 8 t, ivLen := BitVec.ofNat 64 n }
      s.fault = false ∧ s.ks0.valid = true ∧ s.cfgTagLen.toNat ∈ [4, 6, 8, 10, 12, 14, 16]
      ∧ 7 ≤ s.ivLen.toNat ∧ s.ivLen.toNat ≤ 13 := by decide +kernel

theorem wit_gxm_mur_init :
    ∀ t ∈ [8, 16],
      let s := { State.reset with
        cfgTagLen := BitVec.ofNat 8 t, auxLen := 16, auxAddr := 0xFFFFFFF0
        params := { Params.ofSpec with hasGxmKs := true, hasStreamNew := true } }
      s.fault = false ∧ s.auxLen.toNat = 16 ∧ 8 ≤ s.cfgTagLen.toNat ∧ s.cfgTagLen.toNat ≤ 16
      ∧ InMemory s s.auxAddr.toNat 16 ∧ s.params.hasGxmKs = true ∧ s.params.hasStreamNew = true := by decide

theorem wit_gcm_seal :
    let s := aadB (gcm 64 80 16)
    s.mem.wf ∧ s.tagLenL.toNat ≤ 16 ∧ GcmReady s s.srcLen.toNat ∧ SealWindows s := by decide +kernel

/-- A sealed empty message in src: the tag is given. -/
def gcmEmpty (tag : Nat) : State := put 0x40 16 tag (gcm 16 0 16)

theorem wit_gcm_open :
    ∀ tag ∈ [0, 0x54F157AF32744BB83BBE8AA6F1578B71],
      (gcmEmpty tag).mem.wf ∧ GcmReady (gcmEmpty tag) (openLen (gcmEmpty tag)) ∧ OpenWindows (gcmEmpty tag)
      ∧ (gcmEmpty tag).ivLen.toNat = 12 := by decide +kernel

/-- The tag of the empty message under K0, scenario B's nonce and no aad is `E(K0, J0)`, 42_gcm.md R129's M: with
it in src the tags agree, with another they do not. -/
theorem wit_gcm_open_tags :
    ∀ tag ∈ [0, 0x54F157AF32744BB83BBE8AA6F1578B71],
      ((bytesOf (ghash (gcmEmpty tag).tbl (aadBytes (gcmEmpty tag)) (srcBytes (gcmEmpty tag) 0)
        ^^^ encryptBlock (gcmEmpty tag).ks0 (blockOf (ivBytes (gcmEmpty tag) ++ [0x00, 0x00, 0x00, 0x01])))).take 16
        = receivedTag (gcmEmpty tag) ↔ tag ≠ 0) := by decide +kernel

theorem wit_ccm_seal :
    let s := ccm 23 31
    s.mem.wf ∧ s.tagLenL.toNat ≤ 16 ∧ s.ivLen.toNat ≤ 13 ∧ CcmReady s s.srcLen.toNat ∧ SealWindows s := by
  decide +kernel

/-- CCM bound as 95_test_vectors.md V52's first row has it: nonce size 7, tag size 4, an empty message. -/
def ccmEmpty (tag : Nat) : State :=
  { put 0x40 4 tag (put 0x10 7 0x10111213141516 (bound .ccm 4 0)) with
    ivAddr := 0x10, ivLen := 7, nonceLenL := 7, tagLenL := 4, iv := 0 }

/-- The register X of that message, by the recurrence of 45_ccm_gxm_mur.md R209: only B0 is absorbed. -/
def ccmEmptyX : Nat → Block
  | 0 => 0
  | _ => 0xC98AAD123990D5C46401D38229790438

theorem wit_ccm_open :
    ∀ tag ∈ [0xEDED6B57, 0xEDED6B56],
      (ccmEmpty tag).mem.wf ∧ (ccmEmpty tag).ivLen.toNat ≤ 13 ∧ CcmReady (ccmEmpty tag) (openLen (ccmEmpty tag))
      ∧ OpenWindows (ccmEmpty tag) ∧ openLen (ccmEmpty tag) = 0 := by decide +kernel

/-- The only block of it, B0 as V52 prints it, and X after it. -/
theorem wit_ccm_open_register :
    blocksOf (ccmB0 4 (ivBytes (ccmEmpty 0)) (aadBytes (ccmEmpty 0)) 0 ++ ccmFormatAad (aadBytes (ccmEmpty 0))
      ++ zeroPad16 []) = [0x0F101112131415160000000000000000]
    ∧ ccmEmptyX 1 = encryptBlock (ccmEmpty 0).ks0 (ccmEmptyX 0 ^^^ 0x0F101112131415160000000000000000) := by
  decide +kernel

/-- With the tag EDED6B57 in src the tag is the one computed, with another it is not: X is fixed by its recurrence. -/
theorem wit_ccm_open_tags :
    ∀ tag ∈ [0xEDED6B57, 0xEDED6B56],
      (receivedTag (ccmEmpty tag) = (bytesOf (ccmEmptyX 1 ^^^ encryptBlock (ccmEmpty tag).ks0
        (blockOf ([BitVec.ofNat 8 7] ++ ivBytes (ccmEmpty tag) ++ be 8 0)))).take 4 ↔ tag = 0xEDED6B57) := by
  decide +kernel

/-- The ends of the nonce range, and an aad on each side of the two header lengths. -/
theorem wit_CcmFormatting :
    4 ∈ [4, 6, 8, 10, 12, 14, 16] ∧ 7 ≤ (zeros 7).length ∧ (zeros 13).length ≤ 13
    ∧ 0 < (zeros 65279).length ∧ (zeros 65279).length < 65280 ∧ 65280 ≤ (zeros 65280).length
    ∧ (zeros 65280).length < 2 ^ 32 ∧ 2 ^ 32 ≤ (zeros (2 ^ 32)).length := by
  simp only [zeros_length]; decide

theorem wit_gxm_seal :
    let s := stream .gxm 5 13
    s.mem.wf ∧ GxmReady s ∧ s.tagLenL.toNat ≤ 16 ∧ SealWindows s := by decide +kernel

/-- The tag of an empty message under GXM, whatever its keystream, each byte changed by x. -/
def gxmEmptyTag (x : Byte) : Bytes :=
  (List.range 8).map fun j =>
    x ^^^ (blockByte (ghash (tableBuild 0x2677F46B09C122CC975533105BD4A22A) [] []) j ^^^ Config.gxmKs j)

/-- A sealed empty message in src. -/
def gxmEmpty (x : Byte) : State := (stream .gxm 8 0).storeBytes 0x40 (gxmEmptyTag x)

theorem wit_gxm_ready (x : Byte) :
    (gxmEmpty x).mem.wf ∧ GxmReady (gxmEmpty x) ∧ (gxmEmpty x).tagLenL.toNat ≤ 16 ∧ openLen (gxmEmpty x) = 0
    ∧ OpenWindows (gxmEmpty x) :=
  have h : 0x40 + 8 ≤ 2 ^ 32 := by decide
  ⟨writeBytes_wf _ _ (by decide), ⟨rfl, rfl, rfl, .inl rfl⟩, Nat.le_of_ble_eq_true rfl, rfl,
    Nat.le_of_ble_eq_true rfl, .inr h, Nat.zero_le _, .inl rfl, .inl rfl, .inl rfl⟩

/-- The tag is the one computed (x = 0), or it is not (x = 1), for every keystream. -/
theorem wit_gxm_open (x : Byte) :
    (receivedTag (gxmEmpty x)).length = 8
    ∧ ∀ j < 8, (receivedTag (gxmEmpty x)).getD j 0
        = x ^^^ (blockByte (ghash (gxmEmpty x).tbl (aadBytes (gxmEmpty x)) (srcBytes (gxmEmpty x) 0)) j
          ^^^ Config.gxmKs ((gxmEmpty x).spos.toNat + j)) := by
  have hw : (stream .gxm 8 0).mem.wf := by decide
  have hl : (gxmEmptyTag x).length = 8 := by simp [gxmEmptyTag]
  have hr : receivedTag (gxmEmpty x) = gxmEmptyTag x := by
    have := readBytes_writeBytes hw 0x40 (gxmEmptyTag x)
    rw [hl] at this
    exact this
  refine ⟨by rw [hr, hl], fun j hj => ?_⟩
  rw [hr, gxmEmptyTag, List.getD, List.getElem?_map, List.getElem?_range hj]
  have h0 : (gxmEmpty x).spos.toNat + j = j := Nat.zero_add j
  rw [h0]
  rfl

def murState (n : Nat) : State := { stream .mur 8 16 with ivLen := BitVec.ofNat 64 n, keyLen := 16, auxLen := 16 }

/-- The ends of the IV range. -/
theorem wit_mur :
    ∀ n ∈ [0, 32],
      (murState n).mem.wf ∧ MurReady (murState n) ∧ (murState n).tagLenL.toNat ≤ 16 := by decide +kernel

theorem wit_mur_windows : ∀ n ∈ [0, 32], SealWindows (murState n) ∧ OpenWindows (murState n) := by
  decide +kernel

/-- Whether the factory refuses is a free value (log 4): one of the two clauses of each pair applies. -/
theorem wit_mur_factory (key iv : Bytes) :
    Config.streamNew key iv = none ∨ ∃ ks, Config.streamNew key iv = some ks := by
  cases Config.streamNew key iv <;> simp

/-- The first and the last place to cut, and one between. -/
theorem wit_ChunkingLaw_streams :
    ∀ u ∈ [ModeUnit.cfb, .ofb, .ctr], ∀ k ∈ [0, 5, 33],
      (bound u 33 33).mem.wf ∧ (bound u 33 33).params.wellFormed = true ∧ StreamReady u (bound u 33 33)
      ∧ k ≤ (bound u 33 33).srcLen.toNat ∧ u ∉ [.cbc, .bc, .ofbnlf] := by decide +kernel

theorem wit_ChunkingLaw_blocks :
    ∀ u ∈ [ModeUnit.cbc, .bc, .ofbnlf], ∀ k ∈ [0, 16, 48],
      (bound u 48 48).mem.wf ∧ (bound u 48 48).params.wellFormed = true ∧ StreamReady u (bound u 48 48)
      ∧ k ≤ (bound u 48 48).srcLen.toNat ∧ (bound u 48 48).srcLen.toNat % 16 = 0 ∧ k % 16 = 0 := by decide +kernel

/-- A state whose src holds what command e made of s, which is otherwise as it was. -/
def reversed (e : Instr) (s : State) : State :=
  { s with mem := (after (exec e s)).mem, srcAddr := s.dstAddr, dstAddr := s.srcAddr }

/-- One block of each pair of commands. -/
theorem wit_ModeRoundTrips :
    ∀ p ∈ [(Instr.ecbEnc, Instr.ecbDec, ModeUnit.ecb), (.cbcEnc, .cbcDec, .cbc), (.cfbEnc, .cfbDec, .cfb),
        (.ofbXor, .ofbXor, .ofb), (.ctrXor, .ctrXor, .ctr), (.bcEnc, .bcDec, .bc), (.ofbnlfEnc, .ofbnlfDec, .ofbnlf)],
      let s := bound p.2.2 16 16
      let t := after (exec p.1 s)
      let v := reversed p.1 s
      s.mem.wf ∧ v.mem.wf ∧ v.ks0 = s.ks0 ∧ v.iv = s.iv ∧ v.ksb = s.ksb ∧ v.kpos = s.kpos ∧ StreamReady p.2.2 s
      ∧ s.srcLen.toNat % 16 = 0 ∧ v.srcLen = s.srcLen
      ∧ srcBytes v s.srcLen.toNat = t.mem.readBytes s.dstAddr.toNat s.srcLen.toNat ∧ StreamReady p.2.2 v := by
  decide +kernel

theorem wit_round_trip_schedule (u : ModeUnit) (n m : Nat) : (bound u n m).ks0 = keyExp k0 := rfl

/-- Every command answers a next state, so that the hypothesis `exec e s = .next t` is met by `after (exec e s)`. -/
theorem wit_round_trip_next (s : State) :
    ∀ e ∈ [Instr.ecbEnc, .cbcEnc, .cfbEnc, .ofbXor, .ctrXor, .bcEnc, .ofbnlfEnc, .xtsEnc, .xtsDec, .hctrEnc, .hctrDec,
        .gcmSeal, .ccmSeal, .gxmSeal, .murSeal],
      exec e s = .next (after (exec e s)) := by
  simp only [List.forall_mem_cons, List.not_mem_nil, false_imp_iff, implies_true, and_true]
  exact ⟨rfl, rfl, rfl, rfl, rfl, rfl, rfl, rfl, rfl, rfl, rfl, rfl, rfl, rfl, rfl⟩

theorem wit_XtsRoundTrips :
    ∀ e ∈ [Instr.xtsEnc, .xtsDec],
      let s := xts 17
      let v := reversed e s
      s.mem.wf ∧ v.mem.wf ∧ v.ks0 = s.ks0 ∧ v.srcLen = s.srcLen
      ∧ srcBytes v s.srcLen.toNat = (after (exec e s)).mem.readBytes s.dstAddr.toNat s.srcLen.toNat
      ∧ v.ks1 = s.ks1 ∧ v.dialL = s.dialL ∧ v.mem.block v.ivAddr.toNat = s.mem.block s.ivAddr.toNat := by
  decide +kernel

theorem wit_XtsRoundTrips_ready :
    ∀ e ∈ [Instr.xtsEnc, .xtsDec], XtsReady (xts 17) ∧ XtsReady (reversed e (xts 17)) := by decide +kernel

theorem wit_HctrRoundTrips :
    ∀ e ∈ [Instr.hctrEnc, .hctrDec],
      let s := { hctr 16 with ks0 := keyExp k0 }
      let v := reversed e s
      s.mem.wf ∧ v.mem.wf ∧ v.ks0 = s.ks0 ∧ v.srcLen = s.srcLen
      ∧ srcBytes v s.srcLen.toNat = (after (exec e s)).mem.readBytes s.dstAddr.toNat s.srcLen.toNat
      ∧ HctrReady s ∧ HctrReady v ∧ v.tbl = s.tbl ∧ v.iv = s.iv := by decide +kernel

/-- The two cases of a length word, at the boundary: 2^61 − 17 and 2^61 − 16 bytes of message (log 11). -/
theorem wit_UhashIsOneHashOfMessageAndTweak :
    8 * ((zeros (2 ^ 61 - 17)).length + 16) < 2 ^ 64 ∧ 2 ^ 64 ≤ 8 * ((zeros (2 ^ 61 - 16)).length + 16) := by
  rw [zeros, zeros, List.length_replicate, List.length_replicate]
  decide

/-- After a SEAL of one byte: src is where the sealed bytes are, dst where the byte was. -/
def opened (e : Instr) (s : State) : State :=
  { s with
    mem := (after (exec e s)).mem, srcAddr := s.dstAddr, srcLen := s.srcLen + s.tagLenL.setWidth 64
    dstAddr := s.srcAddr, dstCap := s.srcLen }

theorem opened_mem (e : Instr) (s : State) : (opened e s).mem = (after (exec e s)).mem := rfl

theorem wit_OpenUndoesSeal :
    ∀ p ∈ [(Instr.gcmSeal, gcm 1 17 16, ModeUnit.gcm), (.ccmSeal, ccm 1 9, .ccm)],
      let s := p.2.1
      let t := after (exec p.1 s)
      let v := opened p.1 s
      s.mem.wf ∧ v.mem.wf ∧ s.fault = false ∧ s.active = some p.2.2 ∧ s.tagLenL.toNat ≤ 16 ∧ t.err = none
      ∧ v.params = s.params ∧ v.fault = false ∧ v.active = s.active ∧ v.ks0 = s.ks0 ∧ v.tbl = s.tbl ∧ v.tblV = s.tblV
      ∧ v.tagLenL = s.tagLenL ∧ v.nonceLenL = s.nonceLenL ∧ v.spos = s.spos
      ∧ v.aadLen = s.aadLen ∧ aadBytes v = aadBytes s ∧ InMemory v v.aadAddr.toNat v.aadLen.toNat
      ∧ v.ivLen = s.ivLen ∧ ivBytes v = ivBytes s ∧ InMemory v v.ivAddr.toNat v.ivLen.toNat
      ∧ p.2.2 ≠ .mur ∧ v.srcLen.toNat = s.srcLen.toNat + s.tagLenL.toNat
      ∧ srcBytes v v.srcLen.toNat = t.mem.readBytes s.dstAddr.toNat v.srcLen.toNat ∧ OpenWindows v := by
  decide +kernel

/-- The same for GXM with an empty message, whatever its keystream. (For MUR the hypothesis `t.err = none` is that
the factory refuses neither stream, a free value, log 4.) -/
theorem wit_OpenUndoesSeal_gxm :
    let s := stream .gxm 0 8
    let t := after (exec .gxmSeal s)
    let v := opened .gxmSeal s
    s.mem.wf ∧ v.mem.wf ∧ t.err = none ∧ v.spos = s.spos ∧ aadBytes v = aadBytes s
    ∧ InMemory v v.aadAddr.toNat v.aadLen.toNat ∧ v.srcLen.toNat = s.srcLen.toNat + s.tagLenL.toNat
    ∧ srcBytes v v.srcLen.toNat = t.mem.readBytes s.dstAddr.toNat v.srcLen.toNat ∧ OpenWindows v :=
  have h : 0x100 + 8 ≤ 2 ^ 32 := by decide
  have he : after (exec .gxmSeal (stream .gxm 0 8)) = gxmSealEffect (stream .gxm 0 8) := by
    have h0 : exec .gxmSeal (stream .gxm 0 8) = .next ((stream .gxm 0 8).command
        (seqCheck ((stream .gxm 0 8).bound .gxm && (stream .gxm 0 8).tblV) :: sealChecks (stream .gxm 0 8) [])
        (gxmSealEffect (stream .gxm 0 8))) := rfl
    rw [h0, after, command_of_pass rfl (by decide +kernel)]
  have hw : (opened .gxmSeal (stream .gxm 0 8)).mem.wf := by
    rw [opened_mem, he, gxmSealEffect, deliver_mem]
    exact writeBytes_wf _ _ (by decide +kernel)
  have hn : ∀ m m' : Memory, m.readBytes 0 0 = m'.readBytes 0 0 := fun _ _ => rfl
  ⟨by decide, hw, by rw [he]; rfl, rfl, hn _ _, .inl rfl,
    rfl, congrArg (fun m : Memory => m.readBytes 0x100 8) (opened_mem .gxmSeal (stream .gxm 0 8)), Nat.le_of_ble_eq_true rfl, .inr h, Nat.zero_le _, .inl rfl, .inl rfl, .inl rfl⟩

end Sys2Proof.Tests
end

section
/-! SUPPORT. The host's accesses (10_state.md R10, R16 to R19): the fields of the registers that are views, and what a
read, a write, a memory access and the reset event do. -/

namespace Sys2Proof.Machine

/-! ## A field put at its place in a 64-bit register -/

/-- A field reads back at its own place. -/
theorem extractLsb'_field {w : Nat} (x : BitVec w) {p : Nat} (h : p + w ≤ 64) :
    (x.setWidth 64 <<< p).extractLsb' p w = x := by
  apply BitVec.eq_of_getLsbD_eq
  intro k hk
  have h1 : p + k < 64 := by omega
  simp [hk, h1]

/-- A field is 0 at every other place. -/
theorem extractLsb'_field_apart {w : Nat} (x : BitVec w) {p q n : Nat} (h : p + w ≤ q ∨ q + n ≤ p) :
    (x.setWidth 64 <<< p).extractLsb' q n = 0 := by
  apply BitVec.eq_of_getLsbD_eq
  intro k hk
  rcases h with h | h
  · have h1 : w ≤ q + k - p := by omega
    simp [BitVec.getLsbD_of_ge x _ h1]
  · have h1 : q + k < p := by omega
    simp [h1]

variable (s : State)

/-! ## The fields of STATUS (R17) -/

/-- STATUS as its six fields, each at its place. -/
theorem statusReg_eq : statusReg s =
    (errField s).setWidth 64 <<< 0 ||| (BitVec.ofBool s.fault).setWidth 64 <<< 8
      ||| (BitVec.ofBool s.ks0.valid).setWidth 64 <<< 9 ||| (BitVec.ofBool s.ks1.valid).setWidth 64 <<< 10
      ||| (BitVec.ofBool s.tblV).setWidth 64 <<< 11 ||| (activeField s).setWidth 64 <<< 12 := by
  rw [BitVec.shiftLeft_zero, statusReg]

theorem statusReg_err : (statusReg s).extractLsb' 0 8 = errField s := by
  simp [-BitVec.shiftLeft_zero, statusReg_eq, BitVec.extractLsb'_or, extractLsb'_field, extractLsb'_field_apart]

theorem statusReg_fault : (statusReg s).getLsbD 8 = s.fault := by
  simp [statusReg]

theorem statusReg_ks0 : (statusReg s).getLsbD 9 = s.ks0.valid := by
  simp [statusReg]

theorem statusReg_ks1 : (statusReg s).getLsbD 10 = s.ks1.valid := by
  simp [statusReg]

theorem statusReg_tbl : (statusReg s).getLsbD 11 = s.tblV := by
  simp [statusReg]

theorem statusReg_active : (statusReg s).extractLsb' 12 4 = activeField s := by
  simp [-BitVec.shiftLeft_zero, statusReg_eq, BitVec.extractLsb'_or, extractLsb'_field, extractLsb'_field_apart]

theorem statusReg_reserved : (statusReg s).extractLsb' 16 48 = 0 := by
  simp [-BitVec.shiftLeft_zero, statusReg_eq, BitVec.extractLsb'_or, extractLsb'_field_apart]

/-! ## The fields of CFG and INFO (R18, R19) -/

/-- CFG as its two fields, each at its place. -/
theorem cfgReg_eq : cfgReg s = s.cfgTagLen.setWidth 64 <<< 0 ||| s.cfgDialect.setWidth 64 <<< 8 := by
  rw [BitVec.shiftLeft_zero, cfgReg]

theorem cfgReg_tagLen : (cfgReg s).extractLsb' 0 8 = s.cfgTagLen := by
  simp [-BitVec.shiftLeft_zero, cfgReg_eq, BitVec.extractLsb'_or, extractLsb'_field, extractLsb'_field_apart]

theorem cfgReg_dialect : (cfgReg s).extractLsb' 8 1 = s.cfgDialect := by
  simp [-BitVec.shiftLeft_zero, cfgReg_eq, BitVec.extractLsb'_or, extractLsb'_field, extractLsb'_field_apart]

theorem cfgReg_reserved : (cfgReg s).extractLsb' 9 55 = 0 := by
  simp [-BitVec.shiftLeft_zero, cfgReg_eq, BitVec.extractLsb'_or, extractLsb'_field_apart]

/-- INFO as its three fields, each at its place. -/
theorem infoReg_eq : infoReg s =
    (BitVec.ofNat 8 s.params.conc).setWidth 64 <<< 0 ||| (16#8).setWidth 64 <<< 8 ||| (1#16).setWidth 64 <<< 16 := by
  rw [BitVec.shiftLeft_zero]; rfl

/-- Every CONC of R5 fits its 8 bits. -/
theorem conc_lt_of_wellFormed {p : Params} (h : p.wellFormed = true) : p.conc < 256 := by
  have hlt : ∀ c ∈ [1, 2, 4, 8, 16, 32, 64, 128], c < 256 := by decide
  exact hlt _ (by simpa [Params.concOk] using Bool.and_elim_left h)

theorem infoReg_conc (h : s.params.wellFormed = true) : ((infoReg s).extractLsb' 0 8).toNat = s.params.conc := by
  have hfield : (infoReg s).extractLsb' 0 8 = BitVec.ofNat 8 s.params.conc := by
    rw [infoReg_eq, BitVec.extractLsb'_or, BitVec.extractLsb'_or, extractLsb'_field _ (by decide),
      extractLsb'_field_apart _ (by decide), extractLsb'_field_apart _ (by decide)]
    simp
  rw [hfield, BitVec.toNat_ofNat, Nat.mod_eq_of_lt (conc_lt_of_wellFormed h)]

theorem infoReg_blockSize : (infoReg s).extractLsb' 8 8 = 16 := by
  rw [infoReg_eq, BitVec.extractLsb'_or, BitVec.extractLsb'_or, extractLsb'_field _ (by decide),
    extractLsb'_field_apart _ (by decide), extractLsb'_field_apart _ (by decide)]
  rfl

theorem infoReg_version : (infoReg s).extractLsb' 16 16 = 1 := by
  rw [infoReg_eq, BitVec.extractLsb'_or, BitVec.extractLsb'_or, extractLsb'_field _ (by decide),
    extractLsb'_field_apart _ (by decide), extractLsb'_field_apart _ (by decide)]
  rfl

theorem infoReg_reserved : (infoReg s).extractLsb' 32 32 = 0 := by
  rw [infoReg_eq, BitVec.extractLsb'_or, BitVec.extractLsb'_or, extractLsb'_field_apart _ (by decide),
    extractLsb'_field_apart _ (by decide), extractLsb'_field_apart _ (by decide)]
  rfl

/-! ## Register numbers without a register (R16) -/

theorem readReg_above {no : Nat} (h : 20 < no) : s.readReg no = 0 := by
  unfold State.readReg
  split
  case h_21 => rfl
  all_goals omega

/-- The read-only registers and the numbers above 20 ignore a write. -/
theorem writeReg_ignored {no : Nat} (h : no ∈ [1, 15, 18, 19, 20] ∨ 20 < no) (v : DWord) : s.writeReg no v = s := by
  unfold State.writeReg
  split
  case h_16 => rfl
  all_goals simp at h

/-! ## What the step does with each event -/

variable {s} {rest : List HostEvent}

theorem step_readReg {no : Nat} (h : s.pending = .readReg no :: rest) :
    step s = .next { s with pending := rest, readData := s.readReg no } :=
  step_pending h

theorem step_writeReg {no : Nat} {v : DWord} (hno : no ≠ 0) (h : s.pending = .writeReg no v :: rest) :
    step s = .next (({ s with pending := rest } : State).writeReg no v) := by
  rw [step_pending h, serveHost, if_neg hno]

/-- A write to CMD of a value that decodes is the command. -/
theorem step_command {v : DWord} {i : Instr} (h : s.pending = .writeReg 0 v :: rest) (hi : decode v = .ok i) :
    step s = exec i { s with pending := rest } := by
  rw [step_pending h, serveHost, if_pos rfl, issueCommand, hi]

/-- An access to an address that exists is made. -/
theorem withAddress_of_lt {a : Nat} (h : a < s.params.memSize) (t : State) : withAddress s a t = .next t :=
  if_pos h

/-- An access to an address that does not exist is the one fault of the step (log 6). -/
theorem withAddress_of_ge {a : Nat} (h : s.params.memSize ≤ a) (t : State) :
    withAddress s a t = .fault (.noSuchAddress a) :=
  if_neg (Nat.not_lt.mpr h)

/-- A table word that is a command is a value that decodes to it. -/
theorem decode_of_decodeTableWord {nbits w : Nat} {i : Instr} (h : decodeTableWord nbits w = some i) :
    decode (BitVec.ofNat 64 (w % 2 ^ nbits)) = .ok i := by
  unfold decodeTableWord at h
  split at h
  · next hi => rw [hi, Option.some.inj h]
  · cases h

/-! ## The statements -/

/-- Settles O3: `step_command`, on a write the host makes and on the one `withFetchWord` puts in front. -/
theorem stepRunsTheDecodedCommand : Obligations.StepRunsTheDecodedCommand :=
  ⟨fun _ _ _ _ h hi => step_command h hi,
    fun s nbits w _ h => step_command (s := s.withFetchWord nbits w) rfl (decode_of_decodeTableWord h)⟩

/-- Settles O5: register by register; CFG and INFO by their fields. -/
theorem hostReadsRegisters : Obligations.HostReadsRegisters := by
  intro s no rest h
  refine ⟨s.readReg no, step_readReg h, ?_, ?_, ?_, ?_, ?_, ?_, ?_, ?_, ?_, ?_, ?_, ?_, ?_, ?_, ?_, ?_, ?_, ?_, ?_, ?_,
    readReg_above s⟩
  case refine_14 => rintro rfl; exact ⟨cfgReg_tagLen s, cfgReg_dialect s, cfgReg_reserved s⟩
  case refine_18 =>
    rintro rfl hp
    exact ⟨infoReg_conc s hp, infoReg_blockSize s, infoReg_version s, infoReg_reserved s⟩
  case refine_19 => rintro rfl; exact BitVec.toNat_setWidth_of_le (by decide)
  all_goals rintro rfl; rfl

/-- Settles O6: STATUS field by field, the error codes and unit numbers by their tables. -/
theorem statusShowsItsFields : Obligations.StatusShowsItsFields := by
  intro s rest h
  refine ⟨statusReg s, step_readReg h, fun he => ?_, fun p hp he => ?_, statusReg_fault s, statusReg_ks0 s,
    statusReg_ks1 s, statusReg_tbl s, fun ha => ?_, fun p hp ha => ?_, statusReg_reserved s⟩
  · rw [statusReg_err, errField, he]
  · rw [statusReg_err, errField, he]
    clear he
    revert p
    decide
  · rw [statusReg_active, activeField, ha]
  · rw [statusReg_active, activeField, ha]
    clear ha
    revert p
    decide

/-- Settles O7: register by register. -/
theorem hostWritesRegisters : Obligations.HostWritesRegisters := by
  intro s no v rest hno h
  refine ⟨_, step_writeReg hno h, ?_, ?_, ?_, ?_, ?_, ?_, ?_, ?_, ?_, ?_, ?_, ?_, ?_, ?_, ?_,
    fun hro => writeReg_ignored _ hro v⟩
  all_goals rintro rfl; rfl

/-- Settles O8: a store by `read_write`, and the two sides of MEM_SIZE by `withAddress`. -/
theorem hostAccessesMemory : Obligations.HostAccessesMemory := by
  refine ⟨fun s a b rest hwf h ha => ⟨s.mem.write a b, ?_, fun x => read_write hwf a x b⟩, fun s a rest h ha => ?_,
    fun s a b rest h ha => ?_⟩
  · rw [step_pending h]; exact withAddress_of_lt ha _
  · rw [step_pending h]; exact withAddress_of_lt ha _
  · rcases h with h | h
    · rw [step_pending h]; exact withAddress_of_ge ha _
    · rw [step_pending h]; exact withAddress_of_ge ha _

/-- Settles O9: the reset event is `State.resetEvent`, written out. -/
theorem resetEventResets : Obligations.ResetEventResets := fun _ _ h => step_pending h

end Sys2Proof.Machine
end

section
/-! SUPPORT. Every command as its checks and its effect (30_encoding.md R66), said once, so that a fact about every
command is a fact about the two lists below. -/

namespace Sys2Proof.Machine

/-! ## The effects of the shared procedures -/

/-- The effect of `InitIV(u)` (43_block_stream_modes.md R141). -/
def initIvEffect (u : ModeUnit) (s : State) : State := State.finish { s.bind u with iv := s.fetchBlock .iv } 0

/-- The checks of `InitIV(u)` and, with another first one, of `SetIV(u)` (R141, R144). -/
def ivChecks (ok : Bool) (s : State) : List Check :=
  [seqCheck ok, failIf (s.len .iv ≠ 16) .ivLen, s.busCheck [s.region .iv 16]]

/-- The effect of `SetIV(u)` (R144). -/
def setIvEffect (s : State) : State := State.finish { s with iv := s.fetchBlock .iv } 0

/-- The effect of a `crypt_blocks` command with running value IV (R142). -/
def blockEffect (step : Block → Block → Block × Block) (s : State) : State :=
  State.deliver { s with iv := (chain step s.iv (blocksOf (s.fetchAll .src))).1 }
    (bytesOfBlocks (chain step s.iv (blocksOf (s.fetchAll .src))).2)

/-- The effect of an `xor_keystream` command (R143). -/
def streamEffect (step : StreamCtx → Byte → StreamCtx × Byte) (s : State) : State :=
  (s.withStreamCtx (streamRun step s.streamCtx (s.fetchAll .src)).1).deliver
    (streamRun step s.streamCtx (s.fetchAll .src)).2

/-- The effect of a command that applies a cipher to each block of src on its own (R146, R147). -/
def ecbEffect (cipher : Block → Block) (s : State) : State :=
  s.deliver (bytesOfBlocks ((blocksOf (s.fetchAll .src)).map cipher))

/-! ## The checks and the effect of each command -/

/-- The checks of a command, in its rule's order (60_exceptions.md R247). -/
def checksOf (i : Instr) (s : State) : List Check :=
  match i with
  | .sysNop | .sysZeroize => []
  | .sm4Init => [failIf (s.len .key ≠ 16) .keySize, s.busCheck [s.region .key 16]]
  | .sm4Enc | .sm4Dec => sm4Checks s 16
  | .sm4Encb | .sm4Decb => sm4Checks s (16 * s.params.conc)
  | .gfInit => [failIf (s.len .aux ≠ 16) .keySize, s.busCheck [s.region .aux 16]]
  | .gfMul => [seqCheck s.tblV]
  | .gfUpd => [seqCheck s.tblV, s.busCheck [s.whole .src]]
  | .ecbInit => [seqCheck s.ks0.valid]
  | .cbcInit | .cfbInit | .ofbInit | .ctrInit | .bcInit | .ofbnlfInit => ivChecks s.ks0.valid s
  | .cbcSetiv => ivChecks (s.bound .cbc) s
  | .bcSetiv => ivChecks (s.bound .bc) s
  | .ofbnlfSetiv => ivChecks (s.bound .ofbnlf) s
  | .ecbEnc | .ecbDec => blockChecks .ecb s
  | .cbcEnc | .cbcDec => blockChecks .cbc s
  | .bcEnc | .bcDec => blockChecks .bc s
  | .ofbnlfEnc | .ofbnlfDec => blockChecks .ofbnlf s
  | .cfbEnc | .cfbDec => streamChecks .cfb s
  | .ofbXor => streamChecks .ofb s
  | .ctrXor => streamChecks .ctr s
  | .xtsInit =>
    [failIf (s.len .key ≠ 32) .keySize,
     failIf (s.cfgDialect == 1 && !s.params.hasXtsGbMul2) .unsupported,
     s.busCheck [s.region .key 32]]
  | .xtsEnc | .xtsDec => xtsChecks s
  | .hctrInit =>
    [seqCheck s.ks0.valid,
     failIf (s.len .aux ≠ 16) .keySize,
     failIf (s.len .iv ≠ 16) .ivLen,
     s.busCheck [s.region .iv 16, s.region .aux 16]]
  | .hctrEnc | .hctrDec => hctrChecks s
  | .gcmInit =>
    [seqCheck s.ks0.valid,
     failIf (s.cfgTag < 12 || s.cfgTag > 16) .tagSize,
     failIf (s.len .iv = 0) .nonceSize]
  | .gcmSeal =>
    seqCheck (s.bound .gcm && s.ks0.valid && s.tblV)
      :: nonceCheck s
      :: failIf (s.len .src > gcmMax) .tooLong
      :: sealChecks s [s.whole .iv]
  | .gcmOpen =>
    seqCheck (s.bound .gcm && s.ks0.valid && s.tblV)
      :: nonceCheck s
      :: shortInputCheck s
      :: failIf (s.bodyLen > gcmMax) .tooLong
      :: openChecks s [s.whole .iv]
  | .ccmInit =>
    [seqCheck s.ks0.valid,
     failIf (!([4, 6, 8, 10, 12, 14, 16].contains s.cfgTag)) .tagSize,
     failIf (s.len .iv < 7 || s.len .iv > 13) .nonceSize]
  | .ccmSeal =>
    seqCheck (s.bound .ccm && s.ks0.valid)
      :: nonceCheck s
      :: failIf (s.len .src > ccmMax s) .tooLong
      :: sealChecks s [s.whole .iv]
  | .ccmOpen =>
    seqCheck (s.bound .ccm && s.ks0.valid)
      :: nonceCheck s
      :: shortInputCheck s
      :: failIf (s.bodyLen > ccmMax s) .tooLong
      :: openChecks s [s.whole .iv]
  | .gxmInit =>
    [failIf (s.len .aux ≠ 16) .keySize,
     failIf (s.cfgTag < 8 || s.cfgTag > 16) .tagSize,
     failIf (!s.params.hasGxmKs) .unsupported,
     s.busCheck [s.region .aux 16]]
  | .gxmSeal => seqCheck (s.bound .gxm && s.tblV) :: sealChecks s []
  | .gxmOpen => seqCheck (s.bound .gxm && s.tblV) :: shortInputCheck s :: openChecks s []
  | .murInit =>
    [failIf (s.len .aux ≠ 16) .keySize,
     failIf (s.cfgTag < 8 || s.cfgTag > 16) .tagSize,
     failIf (!s.params.hasStreamNew) .unsupported,
     s.busCheck [s.region .aux 16]]
  | .murSeal =>
    seqCheck (s.bound .mur && s.tblV) :: failIf (s.len .iv > 32) .ivLen :: sealChecks s (murRegions s)
  | .murOpen =>
    seqCheck (s.bound .mur && s.tblV) :: failIf (s.len .iv > 32) .ivLen :: shortInputCheck s
      :: openChecks s (murRegions s)

/-- The effect of a command once its checks pass. -/
def effectOf (i : Instr) (s : State) : State :=
  match i with
  | .sysNop => s.finish 0
  | .sysZeroize => s.zeroize.finish 0
  | .sm4Init => State.finish { s.unbind with ks0 := keyExp (s.fetchBlock .key) } 0
  | .sm4Enc => s.deliver (sm4Lanes (encryptBlock s.ks0) s 1)
  | .sm4Dec => s.deliver (sm4Lanes (decryptBlock s.ks0) s 1)
  | .sm4Encb => s.deliver (sm4Lanes (encryptBlock s.ks0) s s.params.conc)
  | .sm4Decb => s.deliver (sm4Lanes (decryptBlock s.ks0) s s.params.conc)
  | .gfInit => ((if s.tableOwned then s.unbind else s).loadTable (s.fetchBlock .aux)).finish 0
  | .gfMul => State.finish { s with y := gfMul s.tbl s.y } 0
  | .gfUpd => State.finish { s with y := gfUpdate s.tbl s.y (s.fetchAll .src) } 0
  | .ecbInit => (s.bind .ecb).finish 0
  | .ecbEnc => ecbEffect (encryptBlock s.ks0) s
  | .ecbDec => ecbEffect (decryptBlock s.ks0) s
  | .cbcInit => initIvEffect .cbc s
  | .cbcEnc => blockEffect (cbcEncStep s.ks0) s
  | .cbcDec => blockEffect (cbcDecStep s.ks0) s
  | .cbcSetiv | .bcSetiv | .ofbnlfSetiv => setIvEffect s
  | .cfbInit => initIvEffect .cfb s
  | .cfbEnc => streamEffect (cfbStep false s.ks0) s
  | .cfbDec => streamEffect (cfbStep true s.ks0) s
  | .ofbInit => initIvEffect .ofb s
  | .ofbXor => streamEffect (ofbStep s.ks0) s
  | .ctrInit => initIvEffect .ctr s
  | .ctrXor => streamEffect (ctrStep s.ks0) s
  | .xtsInit =>
    State.finish
      { s.bind .xts with
        ks0 := keyExp (blockOf ((s.fetch .key 32).take 16))
        ks1 := keyExp (blockOf ((s.fetch .key 32).drop 16))
        dialL := s.cfgDialect } 0
  | .xtsEnc =>
    s.deliver (xtsEncSector (encryptBlock s.ks0) (xtsMul2 s.dialL) (xtsTweak s) (s.fetchAll .src))
  | .xtsDec =>
    s.deliver (xtsDecSector (decryptBlock s.ks0) (xtsMul2 s.dialL) (xtsTweak s) (s.fetchAll .src))
  | .bcInit => initIvEffect .bc s
  | .bcEnc => blockEffect (bcEncStep s.ks0) s
  | .bcDec => blockEffect (bcDecStep s.ks0) s
  | .ofbnlfInit => initIvEffect .ofbnlf s
  | .ofbnlfEnc => blockEffect (ofbnlfStep encryptBlock s.ks0) s
  | .ofbnlfDec => blockEffect (ofbnlfStep decryptBlock s.ks0) s
  | .hctrInit =>
    State.finish { (s.bind .hctr).loadTable (s.fetchBlock .aux) with iv := s.fetchBlock .iv } 0
  | .hctrEnc => s.deliver (hctrEncrypt s.ks0 s.tbl s.iv (s.fetchAll .src))
  | .hctrDec => s.deliver (hctrDecrypt s.ks0 s.tbl s.iv (s.fetchAll .src))
  | .gcmInit =>
    State.finish
      { (s.bind .gcm).loadTable (encryptBlock s.ks0 0) with tagLenL := s.cfgTagLen, nonceLenL := s.ivLen } 0
  | .gcmSeal =>
    s.deliver (gcmSealBody s
      ++ gcmTag s.ks0 s.tbl s.tagLen (gcmCommandJ0 s) (s.fetchAll .aad) (gcmSealBody s))
  | .gcmOpen => gcmOpenEffect s
  | .ccmInit => State.finish { s.bind .ccm with tagLenL := s.cfgTagLen, nonceLenL := s.ivLen } 0
  | .ccmSeal =>
    s.deliver (ccmCtr (encryptBlock s.ks0) (s.fetchAll .iv) (s.fetchAll .src)
      ++ ccmTag (encryptBlock s.ks0) s.tagLen (s.fetchAll .iv) (s.fetchAll .aad) (s.fetchAll .src))
  | .ccmOpen => ccmOpenEffect s
  | .gxmInit =>
    State.finish { (s.bind .gxm).loadTable (s.fetchBlock .aux) with tagLenL := s.cfgTagLen, spos := 0 } 0
  | .gxmSeal => gxmSealEffect s
  | .gxmOpen => gxmOpenEffect s
  | .murInit => State.finish { (s.bind .mur).loadTable (s.fetchBlock .aux) with tagLenL := s.cfgTagLen } 0
  | .murSeal => murSealEffect s
  | .murOpen => murOpenEffect s

/-- Every command is its checks and its effect, in the skeleton of R66. -/
theorem exec_eq_command (i : Instr) (s : State) : exec i s = .next (s.command (checksOf i s) (effectOf i s)) := by
  cases i <;> rfl

/-- The checks of a command all pass. -/
abbrev ChecksPass (i : Instr) (s : State) : Prop := ∀ c ∈ checksOf i s, c.fails = false

/-- All a command can do: a faulted core ignores it; else it raises the error of one of its checks that fails, or all
its checks pass and it has its effect (30_encoding.md R66, 60_exceptions.md R242, R247). -/
theorem exec_cases {i : Instr} {s t : State} (h : exec i s = .next t) :
    (s.fault = true ∧ t = s)
    ∨ (s.fault = false ∧ ∃ c ∈ checksOf i s, c.fails = true ∧ t = s.raise c.err)
    ∨ (s.fault = false ∧ ChecksPass i s ∧ t = effectOf i s) := by
  rw [exec_eq_command, Host.Outcome.next.injEq] at h
  subst h
  rcases command_cases s (checksOf i s) (effectOf i s) with ⟨hf, he⟩ | ⟨hf, err, hfirst, he⟩ | ⟨hf, hfirst, he⟩
  · exact .inl ⟨hf, he⟩
  · obtain ⟨c, hc, rfl, hfails⟩ := firstError_mem hfirst
    exact .inr (.inl ⟨hf, c, hc, hfails, he⟩)
  · exact .inr (.inr ⟨hf, firstError_eq_none.mp hfirst, he⟩)

/-- The error of each of a command's checks is one the command can raise (60_exceptions.md R246). -/
theorem checksOf_err_raisable (i : Instr) (s : State) : ∀ c ∈ checksOf i s, c.err ∈ raisable i := by
  cases i <;>
    simp [checksOf, raisable, ivChecks, sm4Checks, windowChecks, blockChecks, streamChecks, xtsChecks, hctrChecks,
      sealChecks, openChecks, nonceCheck, shortInputCheck]

/-- Nothing raises E_BLOCKSIZE (60_exceptions.md R241). -/
theorem blockSize_not_raisable (i : Instr) : Err.blockSize ∉ raisable i := by
  cases i <;> decide

end Sys2Proof.Machine
end

section
/-! SUPPORT. What the data commands (those with a dst) do to the state: the running context moves on, and the result
is delivered, or zeros are after a tag mismatch, or the stream factory's refusal is raised. -/

namespace Sys2Proof.Machine

/-! ## The running context -/

/-- b is s with the running context moved on as far as the command i may (10_state.md R24 to R26). -/
structure Running (i : Instr) (s b : State) : Prop where
  others : b = { s with iv := b.iv, ksb := b.ksb, kpos := b.kpos, spos := b.spos }
  iv : runsIv i = false → b.iv = s.iv
  ksb : runsKsb i = false → b.ksb = s.ksb
  kpos : runsKpos i = false → b.kpos = s.kpos
  kpos_le : s.kpos ≤ 16 → b.kpos ≤ 16
  spos : runsSpos i = false → b.spos = s.spos

variable {i : Instr} {s b : State}

theorem Running.refl (i : Instr) (s : State) : Running i s s :=
  ⟨rfl, fun _ => rfl, fun _ => rfl, fun _ => rfl, id, fun _ => rfl⟩

theorem Running.withIv (h : runsIv i = true) (v : Block) : Running i s { s with iv := v } :=
  { Running.refl i s with others := rfl, iv := fun h' => absurd h (by simp [h']) }

theorem Running.withStreamCtx {c : StreamCtx} (hiv : runsIv i = true) (hkpos : runsKpos i = true)
    (hksb : runsKsb i = false → c.ksb = s.ksb) (hle : s.kpos ≤ 16 → c.kpos ≤ 16) :
    Running i s (s.withStreamCtx c) :=
  ⟨rfl, fun h => absurd hiv (by simp [h]), hksb, fun h => absurd hkpos (by simp [h]), hle, fun _ => rfl⟩

theorem Running.afterTake (h : runsSpos i = true) (hb : Running i s b) (k : Nat) : Running i s (b.afterTake k) where
  others := by rw [State.afterTake, hb.others]
  iv := hb.iv
  ksb := hb.ksb
  kpos := hb.kpos
  kpos_le := hb.kpos_le
  spos h' := absurd h (by simp [h'])

/-! ## A stream run keeps what each of its steps keeps -/

theorem streamRun_keeps {step : StreamCtx → Byte → StreamCtx × Byte} {P : StreamCtx → Prop}
    (hstep : ∀ c x, P c → P (step c x).1) {c : StreamCtx} (hc : P c) (bs : Bytes) : P (streamRun step c bs).1 := by
  induction bs generalizing c with
  | nil => exact hc
  | cons x bs ih => rw [streamRun_cons]; exact ih (hstep c x hc)

theorem cfbRefill_kpos_lt (ks : KeySchedule) {c : StreamCtx} (h : c.kpos ≤ 16) : (cfbRefill ks c).kpos < 16 := by
  unfold cfbRefill; split
  · exact Nat.succ_pos _
  · omega

theorem ofbRefill_kpos_lt (ks : KeySchedule) {c : StreamCtx} (h : c.kpos ≤ 16) : (ofbRefill ks c).kpos < 16 := by
  unfold ofbRefill; split
  · exact Nat.succ_pos _
  · omega

theorem ctrRefill_kpos_lt (ks : KeySchedule) {c : StreamCtx} (h : c.kpos ≤ 16) : (ctrRefill ks c).kpos < 16 := by
  unfold ctrRefill; split
  · exact Nat.succ_pos _
  · omega

/-- OFB does not use KSB (43_block_stream_modes.md R160). -/
theorem ofbStep_ksb (ks : KeySchedule) (c : StreamCtx) (x : Byte) : (ofbStep ks c x).1.ksb = c.ksb := by
  simp only [ofbStep, ofbRefill]; split <;> rfl

/-! ## What becomes of the result -/

/-- How a data command ends from the state b, with a dst window of n bytes: its result delivered, authentication
failed with zeros written (42_gcm.md R132), or E_STREAM raised with nothing written (45_ccm_gxm_mur.md R224). -/
inductive DataEnd (b : State) (n : Nat) : State → Prop
  | deliver (out : Bytes) (h : out.length ≤ n) : DataEnd b n (b.deliver out)
  | authFailure : DataEnd b n (b.authFailure n)
  | streamRefused : DataEnd b n (b.raise .stream)

/-- CCM.OPEN's plaintext, if any, has the window's length (45_ccm_gxm_mur.md R208). -/
theorem ccmOpenEffect_end (s : State) : DataEnd s s.bodyLen (ccmOpenEffect s) := by
  unfold ccmOpenEffect
  split
  · exact .deliver _ (by simp [ccmOpenBody, ccmCtr, State.sealedBody])
  · exact .authFailure

theorem gcmOpenEffect_end (s : State) : DataEnd s s.bodyLen (gcmOpenEffect s) := by
  unfold gcmOpenEffect
  split
  · exact .deliver _ (by simp [State.sealedBody])
  · exact .authFailure

/-- GXM.OPEN ends from a state in which keystream has been taken, on either branch (45_ccm_gxm_mur.md R215). -/
theorem gxmOpenEffect_end (s : State) :
    ∃ b, Running .gxmOpen s b ∧ DataEnd b s.bodyLen (gxmOpenEffect s) := by
  have hmask : Running .gxmOpen s (s.afterTake s.tagLen) := (Running.refl _ s).afterTake rfl _
  unfold gxmOpenEffect
  split
  · exact ⟨_, hmask.afterTake rfl s.bodyLen, .deliver _ (by simp [State.sealedBody, takenBytes])⟩
  · exact ⟨_, hmask, .authFailure⟩

theorem gxmSealEffect_end (s : State) :
    ∃ b, Running .gxmSeal s b ∧ DataEnd b (s.len .src + s.tagLen) (gxmSealEffect s) := by
  refine ⟨_, ((Running.refl _ s).afterTake rfl s.tagLen).afterTake rfl (s.len .src), .deliver _ ?_⟩
  have hbody : (gxmSealBody s).length ≤ s.len .src := by simp [gxmSealBody, State.fetchAll]
  rw [List.length_append]
  exact Nat.add_le_add hbody (gxmTag_length_le ..)

theorem murCommandTag_length {s : State} {pt tag : Bytes} (h : murCommandTag s pt = some tag) :
    tag.length = s.tagLen := murTag_length h

theorem murSealEffect_end (s : State) : DataEnd s (s.len .src + s.tagLen) (murSealEffect s) := by
  unfold murSealEffect
  split
  · exact .streamRefused
  · next htag =>
    split
    · exact .streamRefused
    · next hct =>
      refine .deliver _ ?_
      rw [List.length_append, murXor_length hct, murCommandTag_length htag, State.fetchAll, fetch_length]

theorem murOpenEffect_end (s : State) : DataEnd s s.bodyLen (murOpenEffect s) := by
  unfold murOpenEffect
  split
  · exact .streamRefused
  · next hpt =>
    split
    · exact .streamRefused
    · split
      · refine .deliver _ ?_
        rw [murXor_length hpt, State.sealedBody, fetch_length]
      · exact .authFailure

/-! ## Every data command -/

/-- A block command's result is as long as its whole blocks of input (43_block_stream_modes.md R142). -/
theorem blockEffect_end {step : Block → Block → Block × Block} (hi : runsIv i = true)
    (hlen : s.srcLen.toNat % 16 = 0) :
    ∃ b, Running i s b ∧ DataEnd b s.srcLen.toNat (blockEffect step s) := by
  refine ⟨_, .withIv hi _, .deliver _ ?_⟩
  simp only [bytesOfBlocks_length, chain_length, blocksOf_length, State.fetchAll, fetch_length, State.len]
  omega

theorem ecbEffect_end (cipher : Block → Block) (hlen : s.srcLen.toNat % 16 = 0) :
    DataEnd s s.srcLen.toNat (ecbEffect cipher s) := by
  refine .deliver _ ?_
  simp only [bytesOfBlocks_length, List.length_map, blocksOf_length, State.fetchAll, fetch_length, State.len]
  omega

theorem streamEffect_end {step : StreamCtx → Byte → StreamCtx × Byte} (hiv : runsIv i = true)
    (hkpos : runsKpos i = true) (hksb : runsKsb i = false → ∀ c x, (step c x).1.ksb = c.ksb)
    (hle : ∀ c x, c.kpos ≤ 16 → (step c x).1.kpos ≤ 16) :
    ∃ b, Running i s b ∧ DataEnd b s.srcLen.toNat (streamEffect step s) := by
  refine ⟨_, .withStreamCtx hiv hkpos (fun h => ?_) (fun h => ?_), .deliver _ ?_⟩
  · exact streamRun_keeps (P := fun c => c.ksb = s.ksb) (fun c x hc => (hksb h c x).trans hc) rfl _
  · exact streamRun_keeps (P := fun c => c.kpos ≤ 16) hle h _
  · rw [streamRun_length, State.fetchAll, fetch_length, State.len]

/-- The input of these units is a string of whole blocks (43_block_stream_modes.md R142). -/
theorem wholeBlocks_of_pass {u : ModeUnit} (h : ∀ c ∈ blockChecks u s, c.fails = false) :
    s.srcLen.toNat % 16 = 0 := by
  simp only [blockChecks, List.forall_mem_cons, failIf_decide_fails, not_not, ne_eq] at h
  obtain ⟨_, hblocks, _⟩ := h
  exact hblocks

/-- The input of XTS holds at least one block (44_xts_hctr.md R185). -/
theorem xts_srcLen_of_pass (h : ∀ c ∈ xtsChecks s, c.fails = false) : 16 ≤ s.srcLen.toNat := by
  simp only [xtsChecks, List.forall_mem_cons, failIf_decide_fails, Nat.not_lt] at h
  obtain ⟨_, _, hshort, _⟩ := h
  exact hshort

/-- The input of HCTR holds at least one block (44_xts_hctr.md R194). -/
theorem hctr_srcLen_of_pass (h : ∀ c ∈ hctrChecks s, c.fails = false) : 16 ≤ s.srcLen.toNat := by
  simp only [hctrChecks, List.forall_mem_cons, failIf_decide_fails, Nat.not_lt] at h
  obtain ⟨_, hshort, _⟩ := h
  exact hshort

/-- Where its checks pass, a data command ends from a state with the running context moved on, within its dst
window. -/
theorem effectOf_end (hi : writesDst i = true) (hc : ChecksPass i s) :
    ∃ b, Running i s b ∧ DataEnd b (dstWindow i s) (effectOf i s) := by
  cases i with
  | sm4Enc | sm4Dec | sm4Encb | sm4Decb => exact ⟨s, .refl _ s, .deliver _ (sm4Lanes_length ..).le⟩
  | ecbEnc | ecbDec => exact ⟨s, .refl _ s, ecbEffect_end _ (wholeBlocks_of_pass hc)⟩
  | cbcEnc | cbcDec | bcEnc | bcDec | ofbnlfEnc | ofbnlfDec => exact blockEffect_end rfl (wholeBlocks_of_pass hc)
  | cfbEnc | cfbDec => exact streamEffect_end rfl rfl nofun fun c x h => cfbRefill_kpos_lt s.ks0 h
  | ofbXor => exact streamEffect_end rfl rfl (fun _ => ofbStep_ksb s.ks0) fun c x h => ofbRefill_kpos_lt s.ks0 h
  | ctrXor => exact streamEffect_end rfl rfl nofun fun c x h => ctrRefill_kpos_lt s.ks0 h
  | xtsEnc | xtsDec =>
    have h16 := xts_srcLen_of_pass hc
    refine ⟨s, .refl _ s, .deliver _ ?_⟩
    rw [← fetch_length s .src s.srcLen.toNat] at h16
    exact (xtsSector_length _ _ _ _ _ h16).le.trans (fetch_length ..).le
  | hctrEnc =>
    have h16 := hctr_srcLen_of_pass hc
    rw [← fetch_length s .src s.srcLen.toNat] at h16
    exact ⟨s, .refl _ s, .deliver _ ((hctrEncrypt_length _ _ _ h16).le.trans (fetch_length ..).le)⟩
  | hctrDec =>
    have h16 := hctr_srcLen_of_pass hc
    rw [← fetch_length s .src s.srcLen.toNat] at h16
    exact ⟨s, .refl _ s, .deliver _ ((hctrDecrypt_length _ _ _ h16).le.trans (fetch_length ..).le)⟩
  | gcmSeal =>
    refine ⟨s, .refl _ s, .deliver _ ?_⟩
    rw [List.length_append, gcmSealBody, gctr_length, State.fetchAll, fetch_length]
    exact Nat.add_le_add_left (gcmTag_length_le ..) _
  | ccmSeal =>
    refine ⟨s, .refl _ s, .deliver _ ?_⟩
    rw [List.length_append, ccmCtr, indexedCtr_length, State.fetchAll, fetch_length]
    exact Nat.add_le_add_left (ccmTag_length_le ..) _
  | gcmOpen => exact ⟨s, .refl _ s, gcmOpenEffect_end s⟩
  | ccmOpen => exact ⟨s, .refl _ s, ccmOpenEffect_end s⟩
  | gxmSeal => exact gxmSealEffect_end s
  | gxmOpen => exact gxmOpenEffect_end s
  | murSeal => exact ⟨s, .refl _ s, murSealEffect_end s⟩
  | murOpen => exact ⟨s, .refl _ s, murOpenEffect_end s⟩
  | _ => cases hi

/-! ## The dst window of a data command is inside the buffer memory -/

theorem dst_of_windowChecks {n : Nat} {cs : List Check} (hsuffix : windowChecks s n <:+ cs)
    (hc : ∀ c ∈ cs, c.fails = false) : InMemory s s.dstAddr.toNat n := by
  obtain ⟨_, _, hdst, _⟩ := windowChecks_pass.mp fun c h => hc c (hsuffix.mem h)
  exact hdst

theorem dst_of_sealChecks {extra : List Region} {cs : List Check} (hsuffix : sealChecks s extra <:+ cs)
    (hc : ∀ c ∈ cs, c.fails = false) : InMemory s s.dstAddr.toNat (s.len .src + s.tagLen) := by
  obtain ⟨⟨_, _, hdst, _⟩, _⟩ := sealChecks_pass.mp fun c h => hc c (hsuffix.mem h)
  exact hdst

theorem dst_of_openChecks {extra : List Region} {cs : List Check} (hsuffix : openChecks s extra <:+ cs)
    (hc : ∀ c ∈ cs, c.fails = false) : InMemory s s.dstAddr.toNat s.bodyLen := by
  obtain ⟨⟨_, _, hdst, _⟩, _⟩ := openChecks_pass.mp fun c h => hc c (hsuffix.mem h)
  exact hdst

theorem dst_of_xtsChecks (hc : ∀ c ∈ xtsChecks s, c.fails = false) :
    InMemory s s.dstAddr.toNat s.srcLen.toNat :=
  have hbus := hc (s.busCheck [s.region .iv 16, s.whole .src, s.region .dst (s.len .src)]) (by simp [xtsChecks])
  busCheck_fails.mp hbus (s.region .dst (s.len .src)) (by simp)

/-- Where its checks pass, a data command's dst window is inside the buffer memory (20_memory.md R44, R48). -/
theorem dstWindow_inMemory (hi : writesDst i = true) (hc : ChecksPass i s) :
    InMemory s s.dstAddr.toNat (dstWindow i s) := by
  cases i with
  | sm4Enc | sm4Dec | sm4Encb | sm4Decb => exact dst_of_windowChecks ⟨[_, _], rfl⟩ hc
  | ecbEnc | ecbDec | cbcEnc | cbcDec | bcEnc | bcDec | ofbnlfEnc | ofbnlfDec =>
    exact dst_of_windowChecks ⟨[_, _], rfl⟩ hc
  | cfbEnc | cfbDec | ofbXor | ctrXor => exact dst_of_windowChecks ⟨[_], rfl⟩ hc
  | xtsEnc | xtsDec => exact dst_of_xtsChecks hc
  | hctrEnc | hctrDec => exact dst_of_windowChecks ⟨[_, _], rfl⟩ hc
  | gcmSeal | ccmSeal => exact dst_of_sealChecks ⟨[_, _, _], rfl⟩ hc
  | gcmOpen | ccmOpen => exact dst_of_openChecks ⟨[_, _, _, _], rfl⟩ hc
  | gxmSeal => exact dst_of_sealChecks ⟨[_], rfl⟩ hc
  | gxmOpen => exact dst_of_openChecks ⟨[_, _], rfl⟩ hc
  | murSeal => exact dst_of_sealChecks ⟨[_, _], rfl⟩ hc
  | murOpen => exact dst_of_openChecks ⟨[_, _, _], rfl⟩ hc
  | _ => cases hi

end Sys2Proof.Machine
end

section
/-! SUPPORT. What a command may change (10_state.md R16, R20 to R28): the frame of every command. -/

namespace Sys2Proof.Machine

/-- No parameter, operand register, CFG field or field of the model's own differs (10_state.md R16). -/
structure SameOperands (s t : State) : Prop where
  params : t.params = s.params := by simp
  srcAddr : t.srcAddr = s.srcAddr := by simp
  srcLen : t.srcLen = s.srcLen := by simp
  dstAddr : t.dstAddr = s.dstAddr := by simp
  dstCap : t.dstCap = s.dstCap := by simp
  aadAddr : t.aadAddr = s.aadAddr := by simp
  aadLen : t.aadLen = s.aadLen := by simp
  ivAddr : t.ivAddr = s.ivAddr := by simp
  ivLen : t.ivLen = s.ivLen := by simp
  keyAddr : t.keyAddr = s.keyAddr := by simp
  keyLen : t.keyLen = s.keyLen := by simp
  auxAddr : t.auxAddr = s.auxAddr := by simp
  auxLen : t.auxLen = s.auxLen := by simp
  cfgTagLen : t.cfgTagLen = s.cfgTagLen := by simp
  cfgDialect : t.cfgDialect = s.cfgDialect := by simp
  pending : t.pending = s.pending := by simp
  readData : t.readData = s.readData := by simp

/-- The mode context differs at most in what the running command i moves on (10_state.md R23 to R26). -/
structure SameContext (i : Instr) (s t : State) : Prop where
  active : t.active = s.active := by simp
  tagLenL : t.tagLenL = s.tagLenL := by simp
  nonceLenL : t.nonceLenL = s.nonceLenL := by simp
  dialL : t.dialL = s.dialL := by simp
  iv : runsIv i = false → t.iv = s.iv := by simp
  kpos : runsKpos i = false → t.kpos = s.kpos := by simp
  ksb : runsKsb i = false → t.ksb = s.ksb := by simp
  spos : runsSpos i = false → t.spos = s.spos := by simp

/-- t differs from s at most where the command i may write. The defaults are for the fields an update leaves alone;
a proof for a command names the ones it writes. -/
structure Frame (i : Instr) (s t : State) : Prop where
  operands : SameOperands s t := by exact {}
  y : writesY i = false → t.y = s.y := by simp
  ks0 : writesKs0 i = false → t.ks0 = s.ks0 := by simp
  ks1 : writesKs1 i = false → t.ks1 = s.ks1 := by simp
  tbl : writesTbl i = false → t.tbl = s.tbl ∧ t.tblV = s.tblV := by simp
  context : rebinds i = false → SameContext i s t := by exact fun _ => {}
  mem : writesDst i = false → t.mem = s.mem := by simp

variable {i : Instr} {s b t : State}

theorem Frame.refl (i : Instr) (s : State) : Frame i s s := {}

theorem Frame.raise (i : Instr) (s : State) (e : Err) : Frame i s (s.raise e) := {}

/-- A running context moved on is within the frame. -/
theorem Running.frame (h : Running i s b) : Frame i s b := by
  rw [h.others]
  exact { context := fun _ => { iv := h.iv, kpos := h.kpos, ksb := h.ksb, spos := h.spos } }

/-- What a data command ends with changes the memory and the outcome only. -/
theorem DataEnd.frame {n : Nat} (hi : writesDst i = true) (hb : Frame i s b) (h : DataEnd b n t) : Frame i s t := by
  have hmem : ∀ m : Memory, writesDst i = false → m = s.mem := fun _ h => absurd hi (by simp [h])
  obtain ⟨operands, y, ks0, ks1, tbl, context, -⟩ := hb
  cases h with
  | deliver out _ =>
    exact { operands := { operands with }, y, ks0, ks1, tbl, context := fun h => { context h with }, mem := hmem _ }
  | authFailure =>
    exact { operands := { operands with }, y, ks0, ks1, tbl, context := fun h => { context h with }, mem := hmem _ }
  | streamRefused =>
    exact { operands := { operands with }, y, ks0, ks1, tbl, context := fun h => { context h with }, mem := hmem _ }

/-- Ending a command without error changes the outcome only. -/
theorem Frame.finish (h : Frame i s b) (n : Nat) : Frame i s (b.finish n) :=
  { h with operands := { h.operands with }, context := fun hr => { h.context hr with } }

theorem initIvEffect_frame (hi : rebinds i = true) (u : ModeUnit) : Frame i s (initIvEffect u s) :=
  Frame.finish { context := fun h => absurd hi (by simp [h]) } 0

theorem setIvEffect_frame (hi : runsIv i = true) : Frame i s (setIvEffect s) :=
  (Running.withIv hi _).frame.finish 0

/-- A command without a dst changes at most what it may. -/
theorem effectOf_frame_of_no_dst (hi : writesDst i = false) : Frame i s (effectOf i s) := by
  cases i with
  | sysNop => exact (Frame.refl _ s).finish 0
  | sysZeroize =>
    refine Frame.finish ?_ 0
    exact { y := nofun, ks0 := nofun, ks1 := nofun, tbl := nofun, context := nofun }
  | sm4Init => refine Frame.finish ?_ 0; exact { ks0 := nofun, context := nofun }
  | gfInit =>
    refine Frame.finish ?_ 0
    split
    · exact { tbl := nofun, context := nofun }
    · exact { tbl := nofun }
  | gfMul | gfUpd => refine Frame.finish ?_ 0; exact { y := nofun }
  | cbcInit | cfbInit | ofbInit | ctrInit | bcInit | ofbnlfInit => exact initIvEffect_frame rfl _
  | cbcSetiv | bcSetiv | ofbnlfSetiv => exact setIvEffect_frame rfl
  | ecbInit | ccmInit => refine Frame.finish ?_ 0; exact { context := nofun }
  | xtsInit => refine Frame.finish ?_ 0; exact { ks0 := nofun, ks1 := nofun, context := nofun }
  | hctrInit | gcmInit | gxmInit | murInit => refine Frame.finish ?_ 0; exact { tbl := nofun, context := nofun }
  | _ => cases hi

/-- Where its checks pass, a command changes at most what it may. -/
theorem effectOf_frame (hc : ChecksPass i s) : Frame i s (effectOf i s) := by
  cases hi : writesDst i with
  | false => exact effectOf_frame_of_no_dst hi
  | true =>
    obtain ⟨b, hb, hend⟩ := effectOf_end hi hc
    exact hend.frame hi hb.frame

/-- Every command changes at most what it may, whether it is ignored, raises an error or has its effect. -/
theorem exec_frame (h : exec i s = .next t) : Frame i s t := by
  rcases exec_cases h with ⟨_, rfl⟩ | ⟨_, c, _, _, rfl⟩ | ⟨_, hc, rfl⟩
  · exact .refl i _
  · exact .raise i s c.err
  · exact effectOf_frame hc

/-- Settles O12: the frame of the command (`exec_frame`), field by field. -/
theorem commandsChangeOnlyWhatTheyMay : Obligations.CommandsChangeOnlyWhatTheyMay := by
  intro i s t h
  obtain ⟨o, y, ks0, ks1, tbl, context, mem⟩ := exec_frame h
  refine ⟨o.params, o.srcAddr, o.srcLen, o.dstAddr, o.dstCap, o.aadAddr, o.aadLen, o.ivAddr, o.ivLen, o.keyAddr,
    o.keyLen, o.auxAddr, o.auxLen, o.cfgTagLen, o.cfgDialect, o.pending, o.readData, y, ks0, ks1, tbl, fun hr => ?_,
    mem⟩
  have c := context hr
  exact ⟨c.active, c.tagLenL, c.nonceLenL, c.dialL, c.iv, c.kpos, c.ksb, c.spos⟩

end Sys2Proof.Machine
end

section
/-! SUPPORT. The machine invariant (`Inv`): what an end of a command makes of it, the context that each INIT makes, and
that every step keeps it. -/

namespace Sys2Proof.Machine

/-- The invariant of everything but the outcome of the last command (ERR with FAULT, and OUT_LEN). -/
structure Sound (s : State) : Prop where
  params : s.params.wellFormed = true
  memForm : s.mem.wf
  memRange : ∀ c ∈ s.mem, c.1 < s.params.memSize
  ks0 : ScheduleOk s.ks0
  ks1 : ScheduleOk s.ks1
  table : TableOk s
  context : ContextOk s

variable {i : Instr} {s b t : State}

theorem Inv.sound (h : Inv s) : Sound s := { h with }

/-! ## The ends of a command -/

/-- A command that ends without error, its result no longer than the memory. -/
theorem Sound.finish (h : Sound s) (hf : s.fault = false) {n : Nat} (hn : n ≤ s.params.memSize) :
    Inv (s.finish n) :=
  { h with
    error := ⟨by simp [hf], by simp, by simp⟩
    outLen := (Nat.mod_le _ _).trans hn }

/-- A command that takes an error other than E_BLOCKSIZE. -/
theorem Sound.raise (h : Sound s) (hf : s.fault = false) {e : Err} (he : e ≠ .blockSize) : Inv (s.raise e) :=
  { h with
    error := ⟨by simp [hf], by simpa using he, by simp⟩
    outLen := Nat.zero_le _ }

/-- A write inside the buffer memory. -/
theorem Sound.storeBytes (h : Sound s) {a : Nat} {bs : Bytes} (hb : InMemory s a bs.length) :
    Sound (s.storeBytes a bs) :=
  { h with
    memForm := writeBytes_wf a bs h.memForm
    memRange := fun c hc => by
      rcases mem_writeBytes_addr hc with ⟨_, _⟩ | hc
      · rw [storeBytes_params]; omega
      · exact h.memRange c hc }

/-- A shorter region at the same address is inside the memory too. -/
theorem inMemory_mono {a m n : Nat} (h : InMemory s a n) (hmn : m ≤ n) : InMemory s a m := by
  unfold InMemory at *; omega

/-- A region inside the memory is no longer than the memory. -/
theorem le_memSize_of_inMemory {a n : Nat} (h : InMemory s a n) : n ≤ s.params.memSize := by
  unfold InMemory at h; omega

/-- A data command's end, its window inside the memory. -/
theorem DataEnd.inv {n : Nat} (h : DataEnd b n t) (hb : Sound b) (hf : b.fault = false)
    (hn : InMemory b b.dstAddr.toNat n) : Inv t := by
  cases h with
  | deliver out hle =>
    have hout := inMemory_mono hn hle
    exact (hb.storeBytes hout).finish hf (le_memSize_of_inMemory hout)
  | authFailure => exact (hb.storeBytes (by rwa [zeros_length])).raise hf nofun
  | streamRefused => exact hb.raise hf nofun

/-! ## The running context stays one of the bound unit's -/

/-- The units with a running IV (10_state.md R24). -/
theorem runsIv_eq (i : Instr) :
    runsIv i = [some ModeUnit.cbc, some .cfb, some .ofb, some .ctr, some .bc, some .ofbnlf].contains (unitOf i) := by
  cases i <;> rfl

/-- The units with a keystream position (10_state.md R25). -/
theorem runsKpos_eq (i : Instr) : runsKpos i = [some ModeUnit.cfb, some .ofb, some .ctr].contains (unitOf i) := by
  cases i <;> rfl

/-- The units with a keystream buffer (10_state.md R25). -/
theorem runsKsb_eq (i : Instr) : runsKsb i = [some ModeUnit.cfb, some .ctr].contains (unitOf i) := by
  cases i <;> rfl

/-- The unit with a stream position (10_state.md R26). -/
theorem runsSpos_eq (i : Instr) : runsSpos i = [some ModeUnit.gxm].contains (unitOf i) := by
  cases i <;> rfl

/-- A command that runs no part of the context leaves the state. -/
theorem Running.eq_of_not_runs (h : Running i s b) (hiv : runsIv i = false) (hksb : runsKsb i = false)
    (hkpos : runsKpos i = false) (hspos : runsSpos i = false) : b = s := by
  rw [h.others, h.iv hiv, h.ksb hksb, h.kpos hkpos, h.spos hspos]

/-- A command of the bound unit leaves a context of that unit: the unit decides which fields its commands run. -/
theorem Running.contextOk (h : Running i s b) (hu : ∀ u, unitOf i = some u → s.active = some u)
    (hs : ContextOk s) : ContextOk b := by
  have hiv := runsIv_eq i
  have hksb := runsKsb_eq i
  have hkpos := runsKpos_eq i
  have hspos := runsSpos_eq i
  cases hi : unitOf i with
  | none =>
    rw [hi] at hiv hksb hkpos hspos
    rwa [h.eq_of_not_runs hiv hksb hkpos hspos]
  | some u =>
    have hact := hu u hi
    rw [hi] at hiv hksb hkpos hspos
    rw [h.others]
    cases u with
    | ecb | xts | hctr | gcm | ccm | mur => rwa [← h.others, h.eq_of_not_runs hiv hksb hkpos hspos]
    | cbc | bc | ofbnlf =>
      rw [h.ksb hksb, h.kpos hkpos, h.spos hspos]
      simpa only [ContextOk, hact] using hs
    | cfb | ctr =>
      rw [h.spos hspos]
      simp only [ContextOk, hact] at hs ⊢
      obtain ⟨hvalid, hkpos, hrest⟩ := hs
      exact ⟨hvalid, h.kpos_le hkpos, hrest⟩
    | ofb =>
      rw [h.ksb hksb, h.spos hspos]
      simp only [ContextOk, hact] at hs ⊢
      obtain ⟨hvalid, hnoKsb, hkpos, hrest⟩ := hs
      exact ⟨hvalid, hnoKsb, h.kpos_le hkpos, hrest⟩
    | gxm =>
      rw [h.iv hiv, h.ksb hksb, h.kpos hkpos]
      simpa only [ContextOk, hact] using hs

theorem Running.sound (h : Running i s b) (hu : ∀ u, unitOf i = some u → s.active = some u) (hs : Sound s) :
    Sound b := by
  have hctx := h.contextOk hu hs.context
  rw [h.others] at hctx ⊢
  exact { hs with context := hctx }

/-- A command of a mode unit other than INIT checks that the unit is bound (30_encoding.md R66). -/
theorem active_of_pass {u : ModeUnit} (hu : unitOf i = some u) (hc : ChecksPass i s) : s.active = some u := by
  obtain ⟨ok, cs, hcs, hok⟩ : ∃ ok cs, checksOf i s = seqCheck ok :: cs ∧ (ok = true → s.active = some u) := by
    cases i with
    | cbcSetiv | bcSetiv | ofbnlfSetiv => cases hu; exact ⟨_, _, rfl, (bound_iff s _).mp⟩
    | ecbEnc | ecbDec | cbcEnc | cbcDec | bcEnc | bcDec | ofbnlfEnc | ofbnlfDec | cfbEnc | cfbDec | ofbXor | ctrXor
    | ccmSeal | ccmOpen | gxmSeal | gxmOpen | murSeal | murOpen =>
      cases hu; exact ⟨_, _, rfl, fun h => (bound_iff s _).mp (Bool.and_elim_left h)⟩
    | xtsEnc | xtsDec | hctrEnc | hctrDec | gcmSeal | gcmOpen =>
      cases hu; exact ⟨_, _, rfl, fun h => (bound_iff s _).mp (Bool.and_elim_left (Bool.and_elim_left h))⟩
    | _ => cases hu
  exact hok (seqCheck_fails.mp (hc _ (hcs ▸ List.mem_cons_self)))

/-! ## What the commands without a dst make -/

/-- After `Unbind()`, and whatever else becomes of schedules and table, the context is that of no unit
(10_state.md R27). -/
theorem contextOk_of_unbound (h : t.unbind = t) : ContextOk t := by
  rw [← h]
  exact ⟨rfl, ⟨rfl, rfl⟩, ⟨rfl, rfl⟩, rfl, rfl⟩

/-- A table loaded while no unit owns it touches no context (41_gf128.md R110). -/
theorem contextOk_loadTable (hown : s.tableOwned = false) (hs : ContextOk s) (h : Block) :
    ContextOk (s.loadTable h) := by
  cases hact : s.active with
  | none => simp only [ContextOk, loadTable_active, hact] at hs ⊢; exact hs
  | some u =>
    cases u with
    | hctr | gcm | gxm | mur => simp [State.tableOwned, State.bound, hact] at hown
    | ecb | cbc | cfb | ofb | ctr | xts | bc | ofbnlf | ccm =>
      simp only [ContextOk, loadTable_active, hact] at hs ⊢
      exact hs

/-- An INIT that loads the table of a hash key and leaves parameters, memory and schedules. -/
theorem Sound.withTable (hs : Sound s) (h : Block) (hctx : ContextOk t) (htbl : t.tbl = tableBuild h := by simp)
    (hv : t.tblV = true := by simp) (hparams : t.params = s.params := by simp) (hmem : t.mem = s.mem := by simp)
    (hks0 : t.ks0 = s.ks0 := by simp) (hks1 : t.ks1 = s.ks1 := by simp) : Sound t where
  params := hparams ▸ hs.params
  memForm := hmem ▸ hs.memForm
  memRange := hparams ▸ hmem ▸ hs.memRange
  ks0 := hks0 ▸ hs.ks0
  ks1 := hks1 ▸ hs.ks1
  table := .inr ⟨hv, h, htbl⟩
  context := hctx

/-- The units whose INIT is `InitIV` (43_block_stream_modes.md R141). -/
theorem contextOk_initIv {u : ModeUnit} (hu : u ∈ [ModeUnit.cbc, .bc, .ofbnlf, .cfb, .ctr, .ofb])
    (hks0 : s.ks0.valid = true) (v : Block) : ContextOk { s.bind u with iv := v } := by
  simp only [List.mem_cons, List.not_mem_nil, or_false] at hu
  rcases hu with rfl | rfl | rfl | rfl | rfl | rfl
  · exact ⟨hks0, ⟨rfl, rfl⟩, ⟨rfl, rfl⟩, rfl, rfl⟩
  · exact ⟨hks0, ⟨rfl, rfl⟩, ⟨rfl, rfl⟩, rfl, rfl⟩
  · exact ⟨hks0, ⟨rfl, rfl⟩, ⟨rfl, rfl⟩, rfl, rfl⟩
  · exact ⟨hks0, le_rfl, ⟨rfl, rfl⟩, rfl, rfl⟩
  · exact ⟨hks0, le_rfl, ⟨rfl, rfl⟩, rfl, rfl⟩
  · exact ⟨hks0, rfl, le_rfl, ⟨rfl, rfl⟩, rfl, rfl⟩

theorem Sound.initIv (hs : Sound s) {u : ModeUnit} (hu : u ∈ [ModeUnit.cbc, .bc, .ofbnlf, .cfb, .ctr, .ofb])
    (hks0 : s.ks0.valid = true) : Sound { s.bind u with iv := s.fetchBlock .iv } :=
  { hs with context := contextOk_initIv hu hks0 _ }

theorem Sound.zeroize (hs : Sound s) : Sound s.zeroize :=
  { hs with
    ks0 := .inl rfl
    ks1 := .inl rfl
    table := .inl ⟨rfl, rfl⟩
    context := contextOk_of_unbound rfl }

/-- GF.INIT: a unit that owns the table is unbound first (41_gf128.md R110). -/
theorem Sound.gfInit (hs : Sound s) (h : Block) : Sound ((if s.tableOwned then s.unbind else s).loadTable h) := by
  split
  · exact hs.withTable h (contextOk_loadTable rfl (contextOk_of_unbound rfl) h)
  · next hown => exact hs.withTable h (contextOk_loadTable (eq_false_of_ne_true hown) hs.context h)

/-- XTS.INIT: the GB dialect is bound only where its doubling is present (44_xts_hctr.md R181). -/
theorem Sound.xtsInit (hs : Sound s) (k0 k1 : Block) (hc : ChecksPass .xtsInit s) :
    Sound { s.bind .xts with ks0 := keyExp k0, ks1 := keyExp k1, dialL := s.cfgDialect } := by
  have hdial : s.cfgDialect = 1 → s.params.hasXtsGbMul2 = true := by
    have := hc (failIf (s.cfgDialect == 1 && !s.params.hasXtsGbMul2) .unsupported) (by simp [checksOf])
    simpa using this
  exact { hs with
    ks0 := .inr ⟨k0, rfl⟩
    ks1 := .inr ⟨k1, rfl⟩
    context := ⟨rfl, rfl, hdial, rfl, ⟨rfl, rfl⟩, ⟨rfl, rfl⟩, rfl⟩ }

theorem Sound.hctrInit (hs : Sound s) (h v : Block) (hc : ChecksPass .hctrInit s) :
    Sound { (s.bind .hctr).loadTable h with iv := v } := by
  have hks0 : s.ks0.valid = true := seqCheck_fails.mp (hc _ List.mem_cons_self)
  exact hs.withTable h (by simp [ContextOk, NoKeystream, NoSizes, NoDialect, hks0])

theorem Sound.gcmInit (hs : Sound s) (hc : ChecksPass .gcmInit s) :
    Sound { (s.bind .gcm).loadTable (encryptBlock s.ks0 0) with tagLenL := s.cfgTagLen, nonceLenL := s.ivLen } := by
  simp only [ChecksPass, checksOf, List.forall_mem_cons, seqCheck_fails, failIf_fails, Bool.or_eq_false_iff,
    decide_eq_false_iff_not, Nat.not_lt] at hc
  obtain ⟨hks0, ⟨hlo, hhi⟩, hnonce, -⟩ := hc
  have hpos : 0 < s.ivLen.toNat := Nat.pos_of_ne_zero hnonce
  rw [State.cfgTag] at hlo hhi
  exact hs.withTable (encryptBlock s.ks0 0)
    (by simp [ContextOk, NoIv, NoKeystream, NoDialect, hks0, hlo, hhi, hpos])

theorem Sound.ccmInit (hs : Sound s) (hc : ChecksPass .ccmInit s) :
    Sound { s.bind .ccm with tagLenL := s.cfgTagLen, nonceLenL := s.ivLen } := by
  simp only [ChecksPass, checksOf, List.forall_mem_cons, seqCheck_fails, failIf_fails, Bool.or_eq_false_iff,
    decide_eq_false_iff_not, Nat.not_lt, Bool.not_eq_false', List.contains_iff_mem] at hc
  obtain ⟨hks0, htag, ⟨hlo, hhi⟩, -⟩ := hc
  exact { hs with context := ⟨hks0, htag, hlo, hhi, rfl, ⟨rfl, rfl⟩, rfl, rfl⟩ }

theorem Sound.gxmInit (hs : Sound s) (h : Block) (hc : ChecksPass .gxmInit s) :
    Sound { (s.bind .gxm).loadTable h with tagLenL := s.cfgTagLen, spos := 0 } := by
  simp only [ChecksPass, checksOf, List.forall_mem_cons, failIf_fails, Bool.or_eq_false_iff,
    decide_eq_false_iff_not, Nat.not_lt, Bool.not_eq_false'] at hc
  obtain ⟨-, ⟨hlo, hhi⟩, hks, -⟩ := hc
  rw [State.cfgTag] at hlo hhi
  exact hs.withTable h (by simp [ContextOk, NoIv, NoKeystream, hlo, hhi, hks])

theorem Sound.murInit (hs : Sound s) (h : Block) (hc : ChecksPass .murInit s) :
    Sound { (s.bind .mur).loadTable h with tagLenL := s.cfgTagLen } := by
  simp only [ChecksPass, checksOf, List.forall_mem_cons, failIf_fails, Bool.or_eq_false_iff,
    decide_eq_false_iff_not, Nat.not_lt, Bool.not_eq_false'] at hc
  obtain ⟨-, ⟨hlo, hhi⟩, hnew, -⟩ := hc
  rw [State.cfgTag] at hlo hhi
  exact hs.withTable h (by simp [ContextOk, NoIv, NoKeystream, NoDialect, hlo, hhi, hnew])

/-- What a command without a dst makes of a state with the invariant has it too. -/
theorem effectOf_inv_of_no_dst (hi : writesDst i = false) (hs : Inv s) (hf : s.fault = false)
    (hc : ChecksPass i s) : Inv (effectOf i s) := by
  have hsound := hs.sound
  have hks0 {ok : Bool} {cs : List Check} (h : checksOf i s = seqCheck ok :: cs) : ok = true :=
    seqCheck_fails.mp (hc _ (h ▸ List.mem_cons_self))
  have hend {x : State} (hx : Sound x) (hxf : x.fault = false) : Inv (x.finish 0) := hx.finish hxf (Nat.zero_le _)
  cases i with
  | sysNop => exact hend hsound hf
  | sysZeroize => exact hend hsound.zeroize hf
  | sm4Init => exact hend { hsound with ks0 := .inr ⟨_, rfl⟩, context := contextOk_of_unbound rfl } hf
  | gfInit => exact hend (hsound.gfInit _) (by split <;> exact hf)
  | gfMul | gfUpd => exact hend { hsound with } hf
  | ecbInit => exact hend { hsound with context := ⟨hks0 rfl, rfl, ⟨rfl, rfl⟩, ⟨rfl, rfl⟩, rfl, rfl⟩ } hf
  | cbcInit | cfbInit | ofbInit | ctrInit | bcInit | ofbnlfInit =>
    exact hend (hsound.initIv (by decide) (hks0 rfl)) hf
  | cbcSetiv | bcSetiv | ofbnlfSetiv =>
    exact hend ((Running.withIv rfl _).sound (fun u hu => active_of_pass hu hc) hsound) hf
  | xtsInit => exact hend (hsound.xtsInit _ _ hc) hf
  | hctrInit => exact hend (hsound.hctrInit _ _ hc) hf
  | gcmInit => exact hend (hsound.gcmInit hc) hf
  | ccmInit => exact hend (hsound.ccmInit hc) hf
  | gxmInit => exact hend (hsound.gxmInit _ hc) hf
  | murInit => exact hend (hsound.murInit _ hc) hf
  | _ => cases hi

/-! ## Every command, and every step, keeps the invariant -/

/-- Where its checks pass, a command's effect keeps the invariant. -/
theorem effectOf_inv (hs : Inv s) (hf : s.fault = false) (hc : ChecksPass i s) : Inv (effectOf i s) := by
  cases hi : writesDst i with
  | false => exact effectOf_inv_of_no_dst hi hs hf hc
  | true =>
    obtain ⟨b, hb, hend⟩ := effectOf_end hi hc
    have hdst := dstWindow_inMemory hi hc
    have hbs : Sound b := hb.sound (fun u hu => active_of_pass hu hc) hs.sound
    rw [hb.others] at hend hbs
    exact hend.inv hbs hf hdst

theorem exec_inv (hs : Inv s) (h : exec i s = .next t) : Inv t := by
  rcases exec_cases h with ⟨_, rfl⟩ | ⟨hf, c, hmem, _, rfl⟩ | ⟨hf, hc, rfl⟩
  · exact hs
  · exact hs.sound.raise hf fun he => blockSize_not_raisable i (he ▸ checksOf_err_raisable i s c hmem)
  · exact effectOf_inv hs hf hc

theorem illegalCommand_inv (hs : Inv s) (h : illegalCommand s = .next t) : Inv t := by
  rw [illegalCommand, Host.Outcome.next.injEq] at h
  subst h
  cases hf : s.fault with
  | true => rwa [command_of_fault hf]
  | false =>
    rw [command_of_error hf (err := .illegal) rfl]
    exact hs.sound.raise hf nofun

/-- A host write changes operand registers, CFG and Y only, of which the invariant says nothing. -/
theorem writeReg_inv (hs : Inv s) (no : Nat) (v : DWord) : Inv (s.writeReg no v) := by
  unfold State.writeReg
  split <;> exact { hs with }

/-- The reset values have the invariant for all allowed parameters and every memory (10_state.md R30). -/
theorem resetEvent_inv (hparams : s.params.wellFormed = true) (hform : s.mem.wf)
    (hrange : ∀ c ∈ s.mem, c.1 < s.params.memSize) : Inv s.resetEvent where
  params := hparams
  memForm := hform
  memRange := hrange
  ks0 := .inl rfl
  ks1 := .inl rfl
  table := .inl ⟨rfl, rfl⟩
  error := ⟨by simp [State.resetEvent, State.reset], nofun, nofun⟩
  outLen := Nat.zero_le _
  context := contextOk_of_unbound rfl

/-- A byte the host stores at an address that exists. -/
theorem write_inv (hs : Inv s) {a : Nat} (ha : a < s.params.memSize) (x : Byte) :
    Inv { s with mem := s.mem.write a x } :=
  { hs with
    memForm := write_wf a x hs.memForm
    memRange := fun c hc => by
      rcases mem_write_addr hc with h | h
      · exact h ▸ ha
      · exact hs.memRange c h }

/-- Settles O11: by what a step can do (`step_cases`), and for a command by what its end is. -/
theorem everyStepKeepsTheInvariant : Obligations.EveryStepKeepsTheInvariant := by
  intro s t hs h
  have htaken (rest : List HostEvent) : Inv { s with pending := rest } := { hs with }
  rcases step_cases h with ⟨_, rfl⟩ | ⟨_, rest, i, _, _, he⟩ | ⟨_, rest, _, _, _, he⟩ | ⟨no, v, rest, _, _, rfl⟩
    | ⟨_, rest, _, rfl⟩ | ⟨a, x, rest, _, ha, rfl⟩ | ⟨_, rest, _, _, rfl⟩ | ⟨rest, _, rfl⟩
  · exact hs
  · exact exec_inv (htaken rest) he
  · exact illegalCommand_inv (htaken rest) he
  · exact writeReg_inv (htaken rest) no v
  · exact { hs with }
  · exact write_inv (htaken rest) ha x
  · exact { hs with }
  · exact resetEvent_inv hs.params hs.memForm hs.memRange

/-- Settles O10: the reset state is what the reset event makes of it, and its memory lists nothing. -/
theorem resetStateHasTheInvariant : Obligations.ResetStateHasTheInvariant :=
  resetEvent_inv (s := State.reset) (by decide) ⟨.nil, nofun⟩ nofun

end Sys2Proof.Machine
end

section
/-! SUPPORT. Where the memory of a command changes (20_memory.md R42, R43, R49): inside dst, and on success inside the
result. -/

namespace Sys2Proof.Machine

variable {i : Instr} {s b t : State} {n : Nat}

/-- Every data command checks DST_CAP against its whole dst window (20_memory.md R49). -/
theorem capCheck_mem_checksOf (hi : writesDst i = true) : s.capCheck (dstWindow i s) ∈ checksOf i s := by
  cases i with
  | sm4Enc | sm4Dec | sm4Encb | sm4Decb => exact .tail _ (.tail _ (.head _))
  | ecbEnc | ecbDec | cbcEnc | cbcDec | bcEnc | bcDec | ofbnlfEnc | ofbnlfDec => exact .tail _ (.tail _ (.head _))
  | cfbEnc | cfbDec | ofbXor | ctrXor => exact .tail _ (.head _)
  | xtsEnc | xtsDec => exact .tail _ (.tail _ (.tail _ (.tail _ (.head _))))
  | hctrEnc | hctrDec => exact .tail _ (.tail _ (.head _))
  | gcmSeal | ccmSeal => exact .tail _ (.tail _ (.tail _ (.head _)))
  | gcmOpen | ccmOpen => exact .tail _ (.tail _ (.tail _ (.tail _ (.head _))))
  | gxmSeal => exact .tail _ (.head _)
  | gxmOpen => exact .tail _ (.tail _ (.head _))
  | murSeal => exact .tail _ (.tail _ (.head _))
  | murOpen => exact .tail _ (.tail _ (.tail _ (.head _)))
  | _ => cases hi

theorem dstWindow_le_dstCap (hi : writesDst i = true) (hc : ChecksPass i s) : dstWindow i s ≤ s.dstCap.toNat :=
  capCheck_fails.mp (hc _ (capCheck_mem_checksOf hi))

theorem sameOutside_mono {m m' : Memory} {a k : Nat} (h : SameOutside m m' a k) (hk : k ≤ n) : SameOutside m m' a n :=
  fun x hx => h x (by omega)

/-- What a data command ends with is inside its dst window. -/
theorem DataEnd.sameOutside (h : DataEnd b n t) (hwf : b.mem.wf) : SameOutside b.mem t.mem b.dstAddr.toNat n := by
  cases h with
  | deliver out hle => exact sameOutside_mono (written_writeBytes hwf _ out).1 hle
  | authFailure =>
    have hzeros := (written_writeBytes hwf b.dstAddr.toNat (zeros n)).1
    rwa [zeros_length] at hzeros
  | streamRefused => exact fun _ _ => rfl

/-- A data command that succeeds has delivered a result, and OUT_LEN is its whole length. -/
theorem DataEnd.sameOutside_outLen (h : DataEnd b n t) (hwf : b.mem.wf) (hn : n < 2 ^ 64) (herr : t.err = none) :
    SameOutside b.mem t.mem b.dstAddr.toNat t.outLen.toNat := by
  cases h with
  | deliver out hle =>
    rw [deliver_outLen, BitVec.toNat_ofNat, Nat.mod_eq_of_lt (by omega)]
    exact (written_writeBytes hwf _ out).1
  | authFailure => cases herr
  | streamRefused => cases herr

/-- Settles O19: only a data command whose checks pass writes, and its end (`effectOf_end`) stays in the dst window,
which DST_CAP holds. -/
theorem writesStayInsideDst : Obligations.WritesStayInsideDst := by
  intro i s t hwf h
  cases hi : writesDst i with
  | false =>
    rw [(exec_frame h).mem hi]
    exact ⟨fun _ _ => rfl, fun _ _ _ _ => rfl⟩
  | true =>
    rcases exec_cases h with ⟨hf, rfl⟩ | ⟨_, c, _, _, rfl⟩ | ⟨_, hc, rfl⟩
    · exact ⟨fun _ _ => rfl, fun _ _ _ _ => rfl⟩
    · exact ⟨fun _ _ => rfl, fun _ _ _ _ => rfl⟩
    · obtain ⟨b, hb, hend⟩ := effectOf_end hi hc
      have hcap := dstWindow_le_dstCap hi hc
      rw [hb.others] at hend
      exact ⟨sameOutside_mono (hend.sameOutside hwf) hcap,
        fun _ herr => hend.sameOutside_outLen hwf (lt_of_le_of_lt hcap s.dstCap.isLt) herr⟩

end Sys2Proof.Machine
end

section
/-! SUPPORT. A block of memory read in wider pieces: words and halves are its bytes joined, first byte most significant
(20_memory.md R45, 41_gf128.md R101). -/

namespace Sys2Proof.Machine

/-- An n-bit field of a block with the byte below it joined on the right is the field of n + 8 bits. -/
theorem extractLsb'_append_byte (b : Block) (p n : Nat) :
    b.extractLsb' (p + 8) n ++ b.extractLsb' p 8 = b.extractLsb' p (n + 8) := by
  rw [BitVec.extractLsb'_append_extractLsb'_eq_extractLsb' rfl]

section
variable (m : Memory) (a : Nat) {j p : Nat}

/-- Byte j of a block stands 8j bits below its top. -/
theorem read_eq_field (h : p + 8 * j = 120) : m.read (a + j) = (m.block a).extractLsb' p 8 := by
  rw [← blockByte_block m a (by omega), blockByte, show 8 * (15 - j) = p by omega]

/-- The four bytes from j on, joined. -/
theorem read_word (h : p + 8 * j = 96) :
    m.read (a + j) ++ m.read (a + (j + 1)) ++ m.read (a + (j + 2)) ++ m.read (a + (j + 3))
      = (m.block a).extractLsb' p 32 := by
  rw [read_eq_field m a (p := p + 8 + 8 + 8) (by omega), read_eq_field m a (p := p + 8 + 8) (by omega),
    read_eq_field m a (p := p + 8) (by omega), read_eq_field m a (p := p) (by omega), extractLsb'_append_byte,
    extractLsb'_append_byte, extractLsb'_append_byte]

/-- The eight bytes from j on, joined. -/
theorem read_half (h : p + 8 * j = 64) :
    m.read (a + j) ++ m.read (a + (j + 1)) ++ m.read (a + (j + 2)) ++ m.read (a + (j + 3)) ++ m.read (a + (j + 4))
      ++ m.read (a + (j + 5)) ++ m.read (a + (j + 6)) ++ m.read (a + (j + 7)) = (m.block a).extractLsb' p 64 := by
  rw [read_word m a (p := p + 8 + 8 + 8 + 8) (by omega), read_eq_field m a (p := p + 8 + 8 + 8) (by omega),
    read_eq_field m a (p := p + 8 + 8) (by omega), read_eq_field m a (p := p + 8) (by omega),
    read_eq_field m a (p := p) (by omega), extractLsb'_append_byte, extractLsb'_append_byte, extractLsb'_append_byte,
    extractLsb'_append_byte]

end

/-- Settles O20: the words and halves of a block are the fields that its bytes, joined, span. -/
theorem blocksAreBigEndian : Obligations.BlocksAreBigEndian := by
  intro m a
  refine ⟨?_, ?_, bytesOf_block m a⟩
  · rw [quadOf, Quad.mk.injEq]
    exact ⟨(read_word m a (j := 0) rfl).symm, (read_word m a (j := 4) rfl).symm, (read_word m a (j := 8) rfl).symm,
      (read_word m a (j := 12) rfl).symm⟩
  · rw [elemOfBlock, Elem.mk.injEq]
    exact ⟨(read_half m a (j := 0) rfl).symm, (read_half m a (j := 8) rfl).symm⟩

end Sys2Proof.Machine
end

section
/-! SUPPORT. The chunking law (20_memory.md R55): a running mode over a message in two parts, with the addresses moved
on, is the mode over the whole. -/

namespace Sys2Proof.Machine

/-! ## A message in two parts -/

/-- The operands of the first part: SRC_LEN is k. -/
def State.firstPart (s : State) (k : Nat) : State := { s with srcLen := BitVec.ofNat 64 k }

/-- The operands of s moved on by k bytes, in a later state t. -/
def State.restPart (s t : State) (k : Nat) : State :=
  { t with
    srcAddr := s.srcAddr + BitVec.ofNat 64 k
    srcLen := s.srcLen - BitVec.ofNat 64 k
    dstAddr := s.dstAddr + BitVec.ofNat 64 k
    dstCap := s.dstCap - BitVec.ofNat 64 k }

/-- An address moved on inside a region of the memory does not wrap around (20_memory.md R44). -/
theorem toNat_add_of_inMemory {s : State} {a : DWord} {k n : Nat} (hp : s.params.memSize ≤ 2 ^ 61)
    (ha : InMemory s a.toNat n) (hk : k ≤ n) : (a + BitVec.ofNat 64 k).toNat = a.toNat + k := by
  have hlt : a.toNat + k < 2 ^ 64 := by
    have := a.isLt
    unfold InMemory at ha
    omega
  rw [BitVec.toNat_add, BitVec.toNat_ofNat, Nat.add_mod_mod, Nat.mod_eq_of_lt hlt]

theorem toNat_sub_ofNat {l : DWord} {k : Nat} (hk : k ≤ l.toNat) : (l - BitVec.ofNat 64 k).toNat = l.toNat - k := by
  have := l.isLt
  have hmod : (BitVec.ofNat 64 k).toNat = k := Nat.mod_eq_of_lt (by omega)
  rw [BitVec.toNat_sub_of_le (by rw [BitVec.le_def]; omega), hmod]

theorem memSize_le_of_wellFormed {p : Params} (h : p.wellFormed = true) : p.memSize ≤ 2 ^ 61 := by
  have hsize : p.memSizeOk = true := Bool.and_elim_right h
  exact of_decide_eq_true (Bool.and_elim_right hsize)

variable {i : Instr} {u : ModeUnit} {s t : State} {k : Nat}

theorem firstPart_srcLen_toNat (hk : k ≤ s.srcLen.toNat) : (s.firstPart k).srcLen.toNat = k :=
  Nat.mod_eq_of_lt (lt_of_le_of_lt hk s.srcLen.isLt)

/-- Where the whole passes its checks, so does the first part. -/
theorem streamReady_firstPart (hr : StreamReady u s) (hk : k ≤ s.srcLen.toNat) : StreamReady u (s.firstPart k) := by
  obtain ⟨hready, hcap, hsrc, hdst, hapart⟩ := hr
  have hapart' : SameOrApart s.dstAddr.toNat k s.srcAddr.toNat k := by
    unfold SameOrApart at *
    omega
  refine ⟨hready, ?_⟩
  rw [firstPart_srcLen_toNat hk]
  exact ⟨hk.trans hcap, inMemory_mono hsrc hk, inMemory_mono hdst hk, hapart'⟩

/-- The numbers in the moved operands. -/
theorem restPart_toNat (hp : s.params.memSize ≤ 2 ^ 61) (hr : StreamReady u s) (hk : k ≤ s.srcLen.toNat) (t : State) :
    (s.restPart t k).srcAddr.toNat = s.srcAddr.toNat + k ∧ (s.restPart t k).srcLen.toNat = s.srcLen.toNat - k
      ∧ (s.restPart t k).dstAddr.toNat = s.dstAddr.toNat + k
      ∧ (s.restPart t k).dstCap.toNat = s.dstCap.toNat - k := by
  obtain ⟨_, hcap, hsrc, hdst, _⟩ := hr
  exact ⟨toNat_add_of_inMemory hp hsrc hk, toNat_sub_ofNat hk, toNat_add_of_inMemory hp hdst hk,
    toNat_sub_ofNat (hk.trans hcap)⟩

/-- Where the whole passes its checks, so does the rest in a later state with the same unit bound. -/
theorem streamReady_restPart (hp : s.params.memSize ≤ 2 ^ 61) (hr : StreamReady u s) (hk : k ≤ s.srcLen.toNat)
    (ht : Ready u t) (hparams : t.params = s.params) : StreamReady u (s.restPart t k) := by
  obtain ⟨hsrcAddr, hsrcLen, hdstAddr, hdstCap⟩ := restPart_toNat hp hr hk t
  obtain ⟨_, hcap, hsrc, hdst, hapart⟩ := hr
  have hmemSize : (s.restPart t k).params.memSize = s.params.memSize := congrArg Params.memSize hparams
  refine ⟨ht, ?_⟩
  unfold Windows InMemory SameOrApart at *
  rw [hsrcAddr, hsrcLen, hdstAddr, hdstCap, hmemSize]
  omega

/-! ## Reading the input and writing the result in two parts -/

theorem writeBytes_append (m : Memory) (a : Nat) (as bs : Bytes) :
    m.writeBytes a (as ++ bs) = (m.writeBytes a as).writeBytes (a + as.length) bs := by
  induction as generalizing m a with
  | nil => rfl
  | cons x as ih =>
    rw [List.cons_append, Memory.writeBytes, Memory.writeBytes, ih, List.length_cons, Nat.add_assoc,
      Nat.add_comm 1]

theorem fetchAll_firstPart (hk : k ≤ s.srcLen.toNat) : (s.firstPart k).fetchAll .src = srcBytes s k :=
  congrArg (srcBytes s) (firstPart_srcLen_toNat hk)

/-- The result of the first part leaves the input of the rest, which does not overlap it (20_memory.md R48). -/
theorem fetchAll_restPart (hwf : s.mem.wf) (hp : s.params.memSize ≤ 2 ^ 61) (hr : StreamReady u s)
    (hk : k ≤ s.srcLen.toNat) {out : Bytes} (hout : out.length = k)
    (hmem : t.mem = s.mem.writeBytes s.dstAddr.toNat out) :
    (s.restPart t k).fetchAll .src = s.mem.readBytes (s.srcAddr.toNat + k) (s.srcLen.toNat - k) := by
  obtain ⟨hsrc, hlen, _, _⟩ := restPart_toNat hp hr hk t
  obtain ⟨_, _, _, _, hapart⟩ := hr
  rw [State.fetchAll, State.fetch, State.addr, State.len, hsrc, hlen, show (s.restPart t k).mem = _ from hmem]
  refine readBytes_congr fun x hx => read_writeBytes_outside hwf ?_
  unfold SameOrApart at hapart
  omega

/-! ## The commands that run a context over their input -/

/-- The effect of a command that runs the context over src and delivers what the run gives. -/
def runEffect (run : StreamCtx → Bytes → StreamCtx × Bytes) (s : State) : State :=
  (s.withStreamCtx (run s.streamCtx (s.fetchAll .src)).1).deliver (run s.streamCtx (s.fetchAll .src)).2

@[simp] theorem runEffect_mem (run : StreamCtx → Bytes → StreamCtx × Bytes) (s : State) :
    (runEffect run s).mem = s.mem.writeBytes s.dstAddr.toNat (run s.streamCtx (s.fetchAll .src)).2 := rfl

@[simp] theorem runEffect_streamCtx (run : StreamCtx → Bytes → StreamCtx × Bytes) (s : State) :
    (runEffect run s).streamCtx = (run s.streamCtx (s.fetchAll .src)).1 := rfl

/-- A block mode's run over bytes: its context is IV alone. -/
def blockRun (step : Block → Block → Block × Block) (c : StreamCtx) (bs : Bytes) : StreamCtx × Bytes :=
  ({ c with iv := (chain step c.iv (blocksOf bs)).1 }, bytesOfBlocks (chain step c.iv (blocksOf bs)).2)

/-- The command i of the unit u is a run under KS0 of inputs of g-byte units, which may be cut between two units. -/
structure RunsOver (i : Instr) (u : ModeUnit) (g : Nat)
    (run : KeySchedule → StreamCtx → Bytes → StreamCtx × Bytes) : Prop where
  exec_eq : ∀ s, StreamReady u s → g ∣ s.srcLen.toNat → exec i s = .next (runEffect (run s.ks0) s)
  length_eq : ∀ ks c bs, g ∣ bs.length → (run ks c bs).2.length = bs.length
  append : ∀ ks c as bs, g ∣ as.length →
    run ks c (as ++ bs) = ((run ks (run ks c as).1 bs).1, (run ks c as).2 ++ (run ks (run ks c as).1 bs).2)

/-- A `crypt_blocks` command runs over whole blocks (43_block_stream_modes.md R142). -/
theorem runsOver_of_blockCommand {step : KeySchedule → Block → Block → Block × Block}
    (h : ∀ s, exec i s = blockCommand u (step s.ks0) s) : RunsOver i u 16 fun ks => blockRun (step ks) where
  exec_eq s hr hdvd := by
    obtain ⟨hready, hwindows⟩ := hr
    have hf : s.fault = false := hready.1
    have hblocks : BlockReady u s := ⟨hready, Nat.mod_eq_zero_of_dvd hdvd, hwindows⟩
    rw [h, blockCommand, command_of_pass hf ((blockChecks_pass hf).mpr hblocks)]
    rfl
  length_eq ks c bs hdvd := by
    rw [blockRun, bytesOfBlocks_length, chain_length, blocksOf_length]
    omega
  append ks c as bs hdvd := by
    simp only [blockRun, blocksOf_append (Nat.mod_eq_zero_of_dvd hdvd), chain_append, bytesOfBlocks_append]

/-- An `xor_keystream` command runs over bytes (43_block_stream_modes.md R143). -/
theorem runsOver_of_streamCommand {step : KeySchedule → StreamCtx → Byte → StreamCtx × Byte}
    (h : ∀ s, exec i s = streamCommand u (step s.ks0) s) : RunsOver i u 1 fun ks => streamRun (step ks) where
  exec_eq s hr _ := by
    have hf : s.fault = false := hr.1.1
    rw [h, streamCommand, command_of_pass hf ((streamChecks_pass hf).mpr hr)]
    rfl
  length_eq ks c bs _ := streamRun_length (step ks) c bs
  append ks c as bs _ := streamRun_append (step ks) c as bs

/-- The law for one command: w on the whole, t1 on the first part, t2 on the rest. -/
theorem RunsOver.two_parts {g : Nat} {run : KeySchedule → StreamCtx → Bytes → StreamCtx × Bytes}
    (h : RunsOver i u g run) (hwf : s.mem.wf) (hp : s.params.memSize ≤ 2 ^ 61) (hr : StreamReady u s)
    (hk : k ≤ s.srcLen.toNat) (hn : g ∣ s.srcLen.toNat) (hgk : g ∣ k) :
    ∃ w t1 t2, exec i s = .next w ∧ exec i (s.firstPart k) = .next t1 ∧ exec i (s.restPart t1 k) = .next t2
      ∧ w.err = none ∧ t1.err = none ∧ t2.err = none ∧ t2.mem = w.mem ∧ t2.streamCtx = w.streamCtx := by
  have hfirstLen := firstPart_srcLen_toNat hk
  have hfirst := streamReady_firstPart hr hk
  obtain ⟨t1, ht1⟩ : ∃ t1, t1 = runEffect (run s.ks0) (s.firstPart k) := ⟨_, rfl⟩
  have hready1 : Ready u t1 := ht1 ▸ hfirst.1
  have hparams1 : t1.params = s.params := by rw [ht1]; rfl
  have hks1 : (s.restPart t1 k).ks0 = s.ks0 := by rw [ht1]; rfl
  have hrest := streamReady_restPart hp hr hk hready1 hparams1
  obtain ⟨hrestSrc, hrestLen, hrestDst, _⟩ := restPart_toNat hp hr hk t1
  refine ⟨_, t1, _, h.exec_eq s hr hn, ?_, h.exec_eq _ hrest ?_, rfl, ?_, rfl, ?_⟩
  · rw [ht1]; exact h.exec_eq _ hfirst (by rwa [hfirstLen])
  · rw [hrestLen]; exact Nat.dvd_sub hn hgk
  · rw [ht1]; rfl
  -- The two parts read the two parts of the input, and the first hands the rest its context.
  have hfetch1 := fetchAll_firstPart hk
  have hout1 : (run s.ks0 s.streamCtx (srcBytes s k)).2.length = k := by
    rw [h.length_eq _ _ _ (by rwa [length_readBytes]), length_readBytes]
  have hmem1 : t1.mem = s.mem.writeBytes s.dstAddr.toNat (run s.ks0 s.streamCtx (srcBytes s k)).2 := by
    rw [ht1, runEffect_mem, hfetch1]; rfl
  have hctx1 : (s.restPart t1 k).streamCtx = (run s.ks0 s.streamCtx (srcBytes s k)).1 := by
    rw [← hfetch1, ht1]; rfl
  have hfetch2 := fetchAll_restPart hwf hp hr hk hout1 hmem1
  have hwhole : s.fetchAll .src = srcBytes s k ++ (s.restPart t1 k).fetchAll .src := by
    rw [hfetch2, ← readBytes_append, Nat.add_sub_cancel' hk]; rfl
  have hrun := h.append s.ks0 s.streamCtx (srcBytes s k) ((s.restPart t1 k).fetchAll .src)
    (by rwa [length_readBytes])
  rw [← hwhole, ← hctx1] at hrun
  constructor
  · rw [runEffect_mem, runEffect_mem, hrun, writeBytes_append, hout1, ← hmem1, hrestDst, hks1]; rfl
  · rw [runEffect_streamCtx, runEffect_streamCtx, hrun, hks1]

/-- Each command of the law runs a context over blocks or over bytes. -/
theorem runsOver_of_mem
    (h : (i, u) ∈ [(Instr.cbcEnc, ModeUnit.cbc), (.cbcDec, .cbc), (.bcEnc, .bc), (.bcDec, .bc), (.ofbnlfEnc, .ofbnlf),
      (.ofbnlfDec, .ofbnlf), (.cfbEnc, .cfb), (.cfbDec, .cfb), (.ofbXor, .ofb), (.ctrXor, .ctr)]) :
    (u ∈ [ModeUnit.cbc, .bc, .ofbnlf] ∧ ∃ run, RunsOver i u 16 run) ∨ ∃ run, RunsOver i u 1 run := by
  simp only [List.mem_cons, Prod.mk.injEq, List.not_mem_nil, or_false] at h
  rcases h with ⟨rfl, rfl⟩ | ⟨rfl, rfl⟩ | ⟨rfl, rfl⟩ | ⟨rfl, rfl⟩ | ⟨rfl, rfl⟩ | ⟨rfl, rfl⟩ | ⟨rfl, rfl⟩ | ⟨rfl, rfl⟩
    | ⟨rfl, rfl⟩ | ⟨rfl, rfl⟩
  · exact .inl ⟨by decide, _, runsOver_of_blockCommand (step := cbcEncStep) fun _ => rfl⟩
  · exact .inl ⟨by decide, _, runsOver_of_blockCommand (step := cbcDecStep) fun _ => rfl⟩
  · exact .inl ⟨by decide, _, runsOver_of_blockCommand (step := bcEncStep) fun _ => rfl⟩
  · exact .inl ⟨by decide, _, runsOver_of_blockCommand (step := bcDecStep) fun _ => rfl⟩
  · exact .inl ⟨by decide, _, runsOver_of_blockCommand (step := ofbnlfStep encryptBlock) fun _ => rfl⟩
  · exact .inl ⟨by decide, _, runsOver_of_blockCommand (step := ofbnlfStep decryptBlock) fun _ => rfl⟩
  · exact .inr ⟨_, runsOver_of_streamCommand (step := cfbStep false) fun _ => rfl⟩
  · exact .inr ⟨_, runsOver_of_streamCommand (step := cfbStep true) fun _ => rfl⟩
  · exact .inr ⟨_, runsOver_of_streamCommand (step := ofbStep) fun _ => rfl⟩
  · exact .inr ⟨_, runsOver_of_streamCommand (step := ctrStep) fun _ => rfl⟩

/-- Settles O56: each command is a run (`runsOver_of_mem`), and a run on two parts is the run on the whole
(`RunsOver.two_parts`). -/
theorem chunkingLaw : Obligations.ChunkingLaw := by
  intro i u s k hi hwf hparams hr hk hcut
  have hp := memSize_le_of_wellFormed hparams
  obtain ⟨g, run, hrun, hn, hgk⟩ : ∃ g run, RunsOver i u g run ∧ g ∣ s.srcLen.toNat ∧ g ∣ k := by
    rcases runsOver_of_mem hi with ⟨hu, run, hrun⟩ | ⟨run, hrun⟩
    · obtain ⟨hn, hk16⟩ := hcut hu
      exact ⟨16, run, hrun, Nat.dvd_of_mod_eq_zero hn, Nat.dvd_of_mod_eq_zero hk16⟩
    · exact ⟨1, run, hrun, Nat.one_dvd _, Nat.one_dvd _⟩
  obtain ⟨w, t1, t2, hw, ht1, ht2, hew, he1, he2, hmem, hctx⟩ := hrun.two_parts hwf hp hr hk hn hgk
  exact ⟨w, t1, t2, hw, ht1, ht2, hew, he1, he2, fun x => by rw [hmem], congrArg StreamCtx.iv hctx,
    congrArg StreamCtx.ksb hctx, congrArg StreamCtx.kpos hctx⟩

end Sys2Proof.Machine
end

section
/-! SUPPORT. The command words (30_encoding.md R60 to R64): a value decodes to a command exactly if it is that
command's word, and any other value written to CMD raises E_ILLEGAL. -/

namespace Sys2Proof

/-! ## The decoder on the words of the commands -/

open Laws.EncodingRoundTrip in
/-- The per-instruction family `Laws.EncodingRoundTrip`, for every command. -/
theorem encodingRoundTrip (i : Instr) : Laws.EncodingRoundTrip.Statement i := by
  cases i
  exacts [sysNop, sysZeroize, sm4Init, sm4Enc, sm4Dec, sm4Encb, sm4Decb, gfInit, gfMul, gfUpd, ecbInit, ecbEnc, ecbDec,
    cbcInit, cbcEnc, cbcDec, cbcSetiv, cfbInit, cfbEnc, cfbDec, ofbInit, ofbXor, ctrInit, ctrXor, xtsInit, xtsEnc,
    xtsDec, bcInit, bcEnc, bcDec, bcSetiv, ofbnlfInit, ofbnlfEnc, ofbnlfDec, ofbnlfSetiv, hctrInit, hctrEnc, hctrDec,
    gcmInit, gcmSeal, gcmOpen, ccmInit, ccmSeal, ccmOpen, gxmInit, gxmSeal, gxmOpen, murInit, murSeal, murOpen]

theorem decode_encode (i : Instr) : decode (encode i) = .ok i := by
  obtain ⟨-, -, -, h⟩ := encodingRoundTrip i
  exact h

/-! ## The decoder on every value -/

/-- A value whose bits above 7:0 are 0 is the number of its bits 7:0. -/
theorem toNat_low_byte {v : DWord} (h : v.extractLsb' 8 56 = 0) : (v.extractLsb' 0 8).toNat = v.toNat := by
  have hhigh : v.toNat >>> 8 % 2 ^ 56 = 0 := by simpa using congrArg BitVec.toNat h
  have hv := v.isLt
  rw [BitVec.extractLsb'_toNat]
  omega

/-- A value that decodes has no reserved bit set, and its number is in R63's table. -/
theorem commandOfWord_of_decode {v : DWord} {i : Instr} (h : decode v = .ok i) : commandOfWord v.toNat = some i := by
  unfold decode at h
  split at h
  · next hrsv =>
    rw [toNat_low_byte hrsv] at h
    split at h
    · next hi => rw [hi, Except.ok.inj h]
    · cases h
  · cases h

/-- Each row of R63's table has its command's word: the UNIT and FUNC numbers that `encode` puts together. -/
theorem eq_encode_of_commandOfWord {n : Nat} {i : Instr} (h : commandOfWord n = some i) : n = (encode i).toNat := by
  unfold commandOfWord at h
  split at h
  case h_51 => cases h
  all_goals rw [← Option.some.inj h]; rfl

theorem decode_eq_ok_iff {v : DWord} {i : Instr} : decode v = .ok i ↔ v = encode i := by
  constructor
  · exact fun h => BitVec.eq_of_toNat_eq (eq_encode_of_commandOfWord (commandOfWord_of_decode h))
  · rintro rfl; exact decode_encode i

/-! ## The list of the command words -/

/-- The command words UNIT * 16 + FUNC, of the FUNC numbers that each unit assigns (R60, R63). -/
def commandWords : List Nat := assignedFuncs.zipIdx.flatMap fun (funcs, unit) => funcs.map (16 * unit + ·)

theorem encode_mem_commandWords (i : Instr) : (encode i).toNat ∈ commandWords := by
  cases i <;> decide

/-- Every word of the list is the word of a command. -/
theorem exists_encode_of_mem_commandWords {n : Nat} (h : n ∈ commandWords) : ∃ i, n = (encode i).toNat := by
  have hrow : ∀ n ∈ commandWords, (commandOfWord n).isSome = true := by decide
  obtain ⟨i, hi⟩ := Option.isSome_iff_exists.mp (hrow n h)
  exact ⟨i, eq_encode_of_commandOfWord hi⟩

/-- R64: the legal commands are the words of the list. -/
theorem decodes_iff_mem_commandWords {v : DWord} : (∃ i, decode v = .ok i) ↔ v.toNat ∈ commandWords := by
  simp only [decode_eq_ok_iff]
  constructor
  · rintro ⟨i, rfl⟩; exact encode_mem_commandWords i
  · intro h
    obtain ⟨i, hi⟩ := exists_encode_of_mem_commandWords h
    exact ⟨i, BitVec.eq_of_toNat_eq hi⟩

/-! ## The statements on the encoding -/

/-- Settles O1: a value decodes to a command exactly if it is the command's word (`decode_eq_ok_iff`). -/
theorem decodeAndEncodeAgree : Obligations.DecodeAndEncodeAgree :=
  ⟨decode_encode, fun _ _ => decode_eq_ok_iff.mp⟩

/-- Settles O2: each of the words is the one `encode` gives its command. -/
theorem tableWordsDecode : Obligations.TableWordsDecode :=
  ⟨decode_encode .sysZeroize, decode_encode .sm4Encb, decode_encode .gfUpd, decode_encode .ecbDec,
    decode_encode .cbcSetiv, decode_encode .cfbEnc, decode_encode .ofbXor, decode_encode .ctrInit,
    decode_encode .xtsDec, decode_encode .bcSetiv, decode_encode .ofbnlfEnc, decode_encode .hctrInit,
    decode_encode .gcmOpen, decode_encode .ccmSeal, decode_encode .gxmOpen, decode_encode .murInit⟩

end Sys2Proof

namespace Sys2Proof.Machine

/-! ## A write to CMD of a value that is no command -/

theorem step_illegal {s : State} {v : DWord} {rest : List HostEvent} (h : s.pending = .writeReg 0 v :: rest)
    (hv : ¬ ∃ i, decode v = .ok i) : step s = illegalCommand { s with pending := rest } := by
  rw [step_pending h, serveHost, if_pos rfl, issueCommand]
  split
  · next i hi => exact absurd ⟨i, hi⟩ hv
  · rfl

/-- While FAULT is 0, an illegal word takes E_ILLEGAL. -/
theorem illegalCommand_raises {s : State} (h : s.fault = false) : illegalCommand s = .next (s.raise .illegal) := by
  rw [illegalCommand, command_of_error h (err := .illegal) rfl]

/-- An error of class P sets FAULT (60_exceptions.md R243). -/
theorem raise_of_classP (s : State) {e : Err} (h : isClassP e = true) :
    s.raise e = { s with err := some e, fault := true, outLen := 0 } := by
  rw [State.raise, h, Bool.or_true]

/-- Settles O4: the words of the list are those that decode (`decodes_iff_mem_commandWords`), and any other value
takes E_ILLEGAL, of class P, on the state with the access taken. -/
theorem otherWordsRaiseIllegal : Obligations.OtherWordsRaiseIllegal := by
  refine ⟨rfl, fun v => decodes_iff_mem_commandWords, fun s v rest hv hp hf => ?_⟩
  have hillegal : ¬ ∃ i, decode v = .ok i := mt decodes_iff_mem_commandWords.mp hv
  rw [step_illegal hp hillegal, illegalCommand_raises (s := { s with pending := rest }) hf, raise_of_classP _ rfl]

end Sys2Proof.Machine
end

section
/-! SUPPORT. The SM4 cipher (40_sm4.md R80 to R89): its constants, its two iterations as one recurrence over words, and
decryption as the inverse of encryption. -/

namespace Sys2Proof.Machine

/-! ## The S-box (R81) -/

/-- The rows of the inverse table: entry y is the byte whose S-box value is y. -/
def sboxInvRows : List Block :=
  [0x716C7AB8160F1E4135EBD02AE4AC625A,
   0xCDC8DB1A0A8E0846F04B96C132A060CC,
   0xF76D69AA61681B760CA914100ED8A3B7,
   0x9BD29A28955F79B286FEF46B4A06FB3E,
   0x84CB212B19B37240FF1CE35B78F6AE4E,
   0x22BF77AD29975D736549CEBECA9263FA,
   0xA78D2F6455E8A51150E1BA51BDBCEDAF,
   0x5C54BB45D93C13E66EF827D66AF2E7C7,
   0x3852A448EF4D1D6FD3E082579DC0B63D,
   0x0124C3993A37E5E2261F1294205E7F74,
   0x7C8F678893D43F424F3318AB2E9891C2,
   0xDF9E5331DE870907DCE947C4C6D71581,
   0xA8D10B177DECEE857E34A6FD04D58B2D,
   0xDA66837570B000FCCFC956B1F5C5B439,
   0x9005A29F30DD4C7B36028059F32CF925,
   0xF1EA8A44239CA189588C3B0D43B503B9]

/-- The inverse of the S-box, looked up as `sbox` is. -/
def sboxInv (y : Byte) : Byte := blockByte (sboxInvRows.getD (y.toNat / 16) 0) (y.toNat % 16)

theorem sboxInv_sbox : ∀ x : Byte, sboxInv (sbox x) = x := by decide +kernel

theorem sbox_injective : Function.Injective sbox := Function.LeftInverse.injective sboxInv_sbox

/-- The table of R81 against its algebraic form. The kernel evaluates one row at a time. -/
theorem sbox_eq_affine_inv_affine (x : Byte) : sbox x = sboxAffine (gf8Inv (sboxAffine x)) := by
  have hrow : ∀ h < 16, ∀ l < 16, sbox (BitVec.ofNat 8 (16 * h + l))
      = sboxAffine (gf8Inv (sboxAffine (BitVec.ofNat 8 (16 * h + l)))) := by
    intro h hh
    interval_cases h <;> decide +kernel
  have hx := x.isLt
  have h := hrow (x.toNat / 16) (by omega) (x.toNat % 16) (by omega)
  rwa [Nat.div_add_mod, BitVec.ofNat_toNat, BitVec.setWidth_eq] at h

/-- The byte formula of the round constants (R83). -/
theorem ckTable_byte : ∀ i < 32, ∀ j < 4,
    ((ckTable.getD i 0).extractLsb' (8 * (3 - j)) 8).toNat = (4 * i + j) * 7 % 256 := by decide +kernel

/-- Settles O22: the S-box by its algebraic form, and the tables of CK and FK as they stand. -/
theorem sm4ConstantsAreTheSpecs : Obligations.Sm4ConstantsAreTheSpecs :=
  ⟨sbox_eq_affine_inv_affine, fun _ _ h => sbox_injective h, rfl, ckTable_byte, rfl⟩

/-! ## The recurrence that the key schedule and the block function share

Both run four words along a list of constants, with T′ and with T: word i + 4 is word i XOR t of the three words between
and constant i. -/

/-- The four words one step on. -/
def quadStep (t : Word → Word) (q : Quad) (c : Word) : Quad := ⟨q.b, q.c, q.d, q.a ^^^ t (q.b ^^^ q.c ^^^ q.d ^^^ c)⟩

/-- The words n to n + 3 of the recurrence from q under the constants cs. -/
def quadAt (t : Word → Word) (q : Quad) (cs : List Word) : Nat → Quad
  | 0 => q
  | n + 1 => quadStep t (quadAt t q cs n) (cs.getD n 0)

/-- Word n of the recurrence. -/
def wordAt (t : Word → Word) (q : Quad) (cs : List Word) (n : Nat) : Word := (quadAt t q cs n).a

section
variable (t : Word → Word) (q : Quad) (cs : List Word)

/-- Four consecutive words: each step moves the words one place along. -/
theorem quadAt_eq (n : Nat) :
    quadAt t q cs n = ⟨wordAt t q cs n, wordAt t q cs (n + 1), wordAt t q cs (n + 2), wordAt t q cs (n + 3)⟩ := rfl

theorem wordAt_add_four (n : Nat) : wordAt t q cs (n + 4) =
    wordAt t q cs n ^^^ t (wordAt t q cs (n + 1) ^^^ wordAt t q cs (n + 2) ^^^ wordAt t q cs (n + 3) ^^^ cs.getD n 0) :=
  rfl

/-- The recurrence after its first step is the recurrence from the next four words. -/
theorem quadAt_cons (c : Word) (n : Nat) : quadAt t q (c :: cs) (n + 1) = quadAt t (quadStep t q c) cs n := by
  induction n with
  | zero => rfl
  | succ n ih => rw [quadAt, ih, List.getD_cons_succ, quadAt]

theorem wordAt_cons (c : Word) (n : Nat) : wordAt t q (c :: cs) (n + 1) = wordAt t (quadStep t q c) cs n :=
  congrArg Quad.a (quadAt_cons t q cs c n)

/-- Stepping along the whole list. -/
theorem foldl_quadStep : cs.foldl (quadStep t) q = quadAt t q cs cs.length := by
  induction cs generalizing q with
  | nil => rfl
  | cons c cs ih => rw [List.foldl_cons, ih, List.length_cons, quadAt_cons]

end

/-! ## The key schedule (R87) -/

theorem expandWords_cons (k : Quad) (c : Word) (cs : List Word) :
    expandWords k (c :: cs) = wordAt mixT' k (c :: cs) 4 :: expandWords (quadStep mixT' k c) cs := rfl

@[simp] theorem expandWords_length (k : Quad) (cs : List Word) : (expandWords k cs).length = cs.length := by
  induction cs generalizing k with
  | nil => rfl
  | cons c cs ih => rw [expandWords_cons, List.length_cons, ih, List.length_cons]

/-- Round key i is word i + 4 of the recurrence. -/
theorem expandWords_getElem? (k : Quad) {cs : List Word} {i : Nat} (h : i < cs.length) :
    (expandWords k cs)[i]? = some (wordAt mixT' k cs (i + 4)) := by
  induction cs generalizing k i with
  | nil => exact absurd h (Nat.not_lt_zero i)
  | cons c cs ih =>
    rw [expandWords_cons]
    cases i with
    | zero => rfl
    | succ i =>
      rw [List.getElem?_cons_succ, ih _ (Nat.lt_of_succ_lt_succ h), show i + 1 + 4 = (i + 4) + 1 by omega, wordAt_cons]

theorem ckTable_length : ckTable.length = 32 := rfl

@[simp] theorem roundKeys_length (key : Block) : (roundKeys key).length = 32 := by
  rw [roundKeys, expandWords_length, ckTable_length]

/-- Settles O23: K is the recurrence with T′ from the whitened key, and dec is enc from its end. -/
theorem keyExpansionIsTheRecurrence : Obligations.KeyExpansionIsTheRecurrence := by
  intro key
  have henc : ∀ i < 32, (roundKeys key)[i]? = some (wordAt mixT' (whitenKey (quadOf key)) ckTable (i + 4)) :=
    fun i hi => expandWords_getElem? _ hi
  have hdec : (roundKeys key).reverse.length = 32 := by rw [List.length_reverse, roundKeys_length]
  refine ⟨wordAt mixT' (whitenKey (quadOf key)) ckTable, rfl, rfl, rfl, rfl,
    fun i _ => wordAt_add_four mixT' _ ckTable i, rfl, roundKeys_length key, hdec, fun i hi => ⟨henc i hi, ?_⟩⟩
  rw [keyExp, List.getElem?_reverse (by rwa [roundKeys_length]), roundKeys_length]
  exact henc (31 - i) (by omega)

/-! ## The block function (R88) -/

theorem sm4Round_eq_quadStep : sm4Round = quadStep mixT := rfl

theorem crypt_eq (rk : List Word) (b : Block) :
    crypt rk b = blockOfQuad (reverseQuad (quadAt mixT (quadOf b) rk rk.length)) := by
  rw [crypt, sm4Round_eq_quadStep, foldl_quadStep]

/-- Settles O24: X is the recurrence with T from the block's words, and its last four words make the result. -/
theorem blockFunctionIsTheRecurrence : Obligations.BlockFunctionIsTheRecurrence := by
  intro ks b hlen
  refine ⟨wordAt mixT (quadOf b) ks.enc, rfl, rfl, rfl, rfl, fun i _ => wordAt_add_four mixT _ ks.enc i, ?_⟩
  rw [encryptBlock, crypt_eq, hlen, quadAt_eq]
  rfl

/-! ## Decryption (R89) -/

open BitVec in
theorem quadOf_blockOfQuad (q : Quad) : quadOf (blockOfQuad q) = q := by
  obtain ⟨a, b, c, d⟩ := q
  simp only [quadOf, blockOfQuad, Quad.mk.injEq]
  refine ⟨?_, ?_, ?_, extractLsb'_append_eq_right⟩
  · rw [extractLsb'_append_eq_of_le (by decide), extractLsb'_append_eq_of_le (by decide)]
    exact extractLsb'_append_eq_left
  · rw [extractLsb'_append_eq_of_le (by decide), extractLsb'_append_eq_of_le (by decide)]
    exact extractLsb'_append_eq_right
  · rw [extractLsb'_append_eq_of_le (by decide)]
    exact extractLsb'_append_eq_right

theorem blockOfQuad_quadOf (b : Block) : blockOfQuad (quadOf b) = b := by
  simp only [blockOfQuad, quadOf]
  rw [BitVec.extractLsb'_append_extractLsb'_eq_extractLsb' (by rfl),
    BitVec.extractLsb'_append_extractLsb'_eq_extractLsb' (start₂ := 64) (by rfl),
    BitVec.extractLsb'_append_extractLsb'_eq_extractLsb' (start₂ := 32) (by rfl)]
  exact BitVec.extractLsb'_eq_self
@[simp] theorem reverseQuad_reverseQuad (q : Quad) : reverseQuad (reverseQuad q) = q := rfl

/-- A round run on its own result with the words in the opposite order takes it back: the same word is XORed into the
same place a second time. -/
theorem sm4Round_reverseQuad_sm4Round (q : Quad) (rk : Word) :
    sm4Round (reverseQuad (sm4Round q rk)) rk = reverseQuad q := by
  have hmix : q.d ^^^ q.c ^^^ q.b ^^^ rk = q.b ^^^ q.c ^^^ q.d ^^^ rk := by ac_rfl
  simp only [sm4Round, reverseQuad, Quad.mk.injEq, true_and]
  rw [hmix, BitVec.xor_assoc, BitVec.xor_self, BitVec.xor_zero]

/-- The rounds under the reversed words undo the rounds. -/
theorem rounds_reverse (rk : List Word) (q : Quad) :
    rk.reverse.foldl sm4Round (reverseQuad (rk.foldl sm4Round q)) = reverseQuad q := by
  induction rk generalizing q with
  | nil => rfl
  | cons k rk ih =>
    rw [List.reverse_cons, List.foldl_append, List.foldl_cons, List.foldl_nil, List.foldl_cons, ih]
    exact sm4Round_reverseQuad_sm4Round q k

/-- The block function under the reversed words undoes the block function, for any words. -/
theorem crypt_reverse_crypt (rk : List Word) (b : Block) : crypt rk.reverse (crypt rk b) = b := by
  simp only [crypt, quadOf_blockOfQuad, rounds_reverse, reverseQuad_reverseQuad, blockOfQuad_quadOf]

theorem decryptBlock_encryptBlock (key b : Block) : decryptBlock (keyExp key) (encryptBlock (keyExp key) b) = b :=
  crypt_reverse_crypt (roundKeys key) b

theorem encryptBlock_decryptBlock (key b : Block) : encryptBlock (keyExp key) (decryptBlock (keyExp key) b) = b := by
  have h := crypt_reverse_crypt (roundKeys key).reverse b
  rwa [List.reverse_reverse] at h

/-- Settles O25: the two inverse laws are `crypt_reverse_crypt` for enc and for its reverse. -/
theorem sm4DecryptionInvertsEncryption : Obligations.Sm4DecryptionInvertsEncryption :=
  ⟨fun _ _ => rfl, fun key b => ⟨decryptBlock_encryptBlock key b, encryptBlock_decryptBlock key b⟩⟩

/-- Settles O26, by evaluating the cipher on the vector. -/
theorem sm4FixedVector : Obligations.Sm4FixedVector := by
  unfold Obligations.Sm4FixedVector
  decide +kernel

end Sys2Proof.Machine
end

section
/-! SUPPORT. The commands of the SM4 unit complete (40_sm4.md R90 to R94). -/

namespace Sys2Proof.Machine

/-- Where FAULT is 0 and its checks pass, a command has its effect (30_encoding.md R66). -/
theorem exec_of_pass {i : Instr} {s : State} (hf : s.fault = false) (hc : ChecksPass i s) :
    exec i s = .next (effectOf i s) := by
  rw [exec_eq_command, command_of_pass hf hc]

/-- Settles O27: both checks pass, and the effect of SM4.INIT is the state the statement writes out. -/
theorem sm4InitCompletes : Obligations.Sm4InitCompletes := by
  intro s hf hlen hkey
  have hsize : (failIf (s.len .key ≠ 16) .keySize).fails = false := failIf_decide_fails.mpr (not_not.mpr hlen)
  have hbus : (s.busCheck [s.region .key 16]).fails = false := busCheck_fails.mpr (List.forall_mem_singleton.mpr hkey)
  have hpass : ChecksPass .sm4Init s :=
    List.forall_mem_cons.mpr ⟨hsize, List.forall_mem_singleton.mpr hbus⟩
  rw [exec_of_pass hf hpass]
  rfl

/-! ## The data commands -/

/-- The checks of the SM4 data commands pass exactly where KS0 is valid, src is long enough and the windows are in place
(R91). -/
theorem sm4Checks_pass {s : State} {n : Nat} :
    (∀ c ∈ sm4Checks s n, c.fails = false) ↔ s.ks0.valid = true ∧ n ≤ s.srcLen.toNat ∧ Windows s n n := by
  have hsplit : sm4Checks s n = seqCheck s.ks0.valid :: failIf (s.len .src < n) .srcShort :: windowChecks s n := rfl
  rw [hsplit, List.forall_mem_cons, List.forall_mem_cons, windowChecks_pass, seqCheck_fails, failIf_decide_fails,
    Nat.not_lt, State.len]

/-- Lane j of the result is the cipher of block j of src (R93). -/
theorem blocksOf_sm4Lanes (cipher : Block → Block) (s : State) {k j : Nat} (hj : j < k) :
    (blocksOf (sm4Lanes cipher s k))[j]? = some (cipher (srcBlock s j)) := by
  rw [sm4Lanes, blocksOf_bytesOfBlocks, List.getElem?_map, State.fetch, blocksOf_readBytes _ _ (by omega)]
  rfl

/-- A command with the checks of R91 on k blocks that delivers a cipher's lanes completes: only the k blocks at dst, ERR
and OUT_LEN change, and each of those blocks is the cipher of its block of src. -/
theorem sm4Lanes_complete {i : Instr} {cipher : Block → Block} {s : State} {k : Nat}
    (hchecks : checksOf i s = sm4Checks s (16 * k)) (heffect : effectOf i s = s.deliver (sm4Lanes cipher s k))
    (hwf : s.mem.wf) (hf : s.fault = false) (hks : s.ks0.valid = true) (hsrc : 16 * k ≤ s.srcLen.toNat)
    (hwin : Windows s (16 * k) (16 * k)) :
    ∃ t, exec i s = .next t ∧ t = { s with mem := t.mem, err := none, outLen := BitVec.ofNat 64 (16 * k) }
      ∧ SameOutside s.mem t.mem s.dstAddr.toNat (16 * k) ∧ ∀ j < k, dstBlock s t j = cipher (srcBlock s j) := by
  have hpass : ChecksPass i s := by
    rw [ChecksPass, hchecks]; exact sm4Checks_pass.mpr ⟨hks, hsrc, hwin⟩
  have hwritten := written_writeBytes hwf s.dstAddr.toNat (sm4Lanes cipher s k)
  have hlength := sm4Lanes_length cipher s k
  refine ⟨s.deliver (sm4Lanes cipher s k), by rw [exec_of_pass hf hpass, heffect], ?_, ?_, fun j hj => ?_⟩
  · rw [deliver_eq, hlength]
  · rw [← hlength]; exact hwritten.1
  · exact block_of_written hwritten (blocksOf_sm4Lanes cipher s hj) (by omega)

/-- The same for one block (R91, R92). -/
theorem sm4Lane_completes {i : Instr} {cipher : Block → Block} {s : State}
    (hchecks : checksOf i s = sm4Checks s 16) (heffect : effectOf i s = s.deliver (sm4Lanes cipher s 1))
    (hwf : s.mem.wf) (hf : s.fault = false) (hks : s.ks0.valid = true) (hsrc : 16 ≤ s.srcLen.toNat)
    (hwin : Windows s 16 16) :
    ∃ t, exec i s = .next t ∧ t = { s with mem := t.mem, err := none, outLen := 16 }
      ∧ SameOutside s.mem t.mem s.dstAddr.toNat 16 ∧ dstBlock s t 0 = cipher (srcBlock s 0) := by
  obtain ⟨t, hexec, ht, houtside, hlanes⟩ := sm4Lanes_complete (k := 1) hchecks heffect hwf hf hks hsrc hwin
  exact ⟨t, hexec, ht, houtside, hlanes 0 Nat.one_pos⟩

/-- Settles O28: ENC and DEC deliver one lane of E and of D, ENCB and DECB CONC of them. -/
theorem sm4DataCommandsComplete : Obligations.Sm4DataCommandsComplete := by
  intro s hwf hf hks
  refine ⟨fun hsrc hwin => ⟨?enc, ?dec⟩, fun hsrc hwin => ⟨?encb, ?decb⟩⟩
  case enc => exact sm4Lane_completes (i := .sm4Enc) rfl rfl hwf hf hks hsrc hwin
  case dec => exact sm4Lane_completes (i := .sm4Dec) rfl rfl hwf hf hks hsrc hwin
  case encb => exact sm4Lanes_complete (i := .sm4Encb) rfl rfl hwf hf hks hsrc hwin
  case decb => exact sm4Lanes_complete (i := .sm4Decb) rfl rfl hwf hf hks hsrc hwin

end Sys2Proof.Machine
end

section
/-! SUPPORT. Elements of GF(2^128): Add as a group operation, coefficients, Double as multiplication by x, and x⁴ by RED
(41_gf128.md R100 to R102, R105, R106). -/

namespace Sys2Proof.Machine

-- One proof at a time: proofs elaborated at once need more memory for thread stacks than the limit allows.
set_option Elab.async false

/-! ## Add (R102) -/

theorem gfAdd_comm (a b : Elem) : gfAdd a b = gfAdd b a := by
  rw [gfAdd, gfAdd, BitVec.xor_comm, BitVec.xor_comm a.high]

@[simp] theorem gfAdd_zero (a : Elem) : gfAdd a Elem.zero = a := by simp [gfAdd, Elem.zero]

@[simp] theorem zero_gfAdd (a : Elem) : gfAdd Elem.zero a = a := by rw [gfAdd_comm, gfAdd_zero]

theorem gfAdd_assoc (a b c : Elem) : gfAdd (gfAdd a b) c = gfAdd a (gfAdd b c) := by
  simp only [gfAdd, BitVec.xor_assoc]

@[simp] theorem gfAdd_self (a : Elem) : gfAdd a a = Elem.zero := by simp [gfAdd, Elem.zero]

/-- Two sums added, term by term. -/
theorem gfAdd_gfAdd_gfAdd_comm (a b c d : Elem) :
    gfAdd (gfAdd a b) (gfAdd c d) = gfAdd (gfAdd a c) (gfAdd b d) := by
  rw [gfAdd_assoc, ← gfAdd_assoc b, gfAdd_comm b, gfAdd_assoc, ← gfAdd_assoc]

theorem elemOfBlock_xor (a b : Block) : elemOfBlock (a ^^^ b) = gfAdd (elemOfBlock a) (elemOfBlock b) := by
  simp only [elemOfBlock, gfAdd, BitVec.extractLsb'_xor]

theorem blockOfElem_gfAdd (a b : Elem) : blockOfElem (gfAdd a b) = blockOfElem a ^^^ blockOfElem b := by
  simp only [blockOfElem, gfAdd]
  exact (BitVec.xor_append ..).symm

/-! ## Coefficients (R100) -/

theorem coeff_low {e : Elem} {k : Nat} (h : k < 64) : coeff e k = e.low.getLsbD (63 - k) := if_pos (by omega)

theorem coeff_high {e : Elem} {k : Nat} (h : 64 ≤ k) : coeff e k = e.high.getLsbD (127 - k) := if_neg (by omega)

theorem coeff_gfAdd (a b : Elem) (k : Nat) : coeff (gfAdd a b) k = (coeff a k ^^ coeff b k) := by
  by_cases hk : k < 64
  · simp only [coeff_low hk, gfAdd, BitVec.getLsbD_xor]
  · simp only [coeff_high (Nat.le_of_not_lt hk), gfAdd, BitVec.getLsbD_xor]

/-- An element is its 128 coefficients. -/
theorem elem_ext {a b : Elem} (h : ∀ k < 128, coeff a k = coeff b k) : a = b := by
  have hlow : a.low = b.low := by
    refine BitVec.eq_of_getLsbD_eq fun i hi => ?_
    have hk := h (63 - i) (by omega)
    rwa [coeff_low (by omega), coeff_low (by omega), Nat.sub_sub_self (by omega)] at hk
  have hhigh : a.high = b.high := by
    refine BitVec.eq_of_getLsbD_eq fun i hi => ?_
    have hk := h (127 - i) (by omega)
    rwa [coeff_high (by omega), coeff_high (by omega), Nat.sub_sub_self (by omega)] at hk
  cases a; cases b; exact congrArg₂ Elem.mk hlow hhigh

/-! ## Double (R102) -/

/-- The word that is XORed in where x^127 is shifted out holds 1 + x + x² + x⁷. -/
theorem reductionWord_getLsbD : ∀ k < 64,
    (0xE100000000000000 : DWord).getLsbD (63 - k) = (k == 0 || [1, 2, 7].contains k) := by decide

theorem gfDouble_low_getLsbD (e : Elem) {k : Nat} (h : k < 64) :
    (gfDouble e).low.getLsbD (63 - k)
      = ((coeff e 127 && (k == 0 || [1, 2, 7].contains k)) ^^ e.low.getLsbD (64 - k)) := by
  have htop : coeff e 127 = e.high.getLsbD 0 := coeff_high (by omega)
  have hidx : 1 + (63 - k) = 64 - k := by omega
  rw [htop, gfDouble]
  cases e.high.getLsbD 0 with
  | true =>
    rw [if_pos rfl, BitVec.getLsbD_xor, BitVec.getLsbD_ushiftRight, hidx, reductionWord_getLsbD k h, Bool.true_and,
      Bool.xor_comm]
  | false => rw [if_neg Bool.false_ne_true, BitVec.getLsbD_ushiftRight, hidx, Bool.false_and, Bool.false_xor]

theorem coeff_gfDouble_zero (e : Elem) : coeff (gfDouble e) 0 = coeff e 127 := by
  rw [coeff_low (by omega), gfDouble_low_getLsbD e (by omega), BitVec.getLsbD_of_ge _ _ le_rfl]
  simp

theorem coeff_gfDouble_succ (e : Elem) {k : Nat} (h : k < 127) :
    coeff (gfDouble e) (k + 1) = ((coeff e 127 && [1, 2, 7].contains (k + 1)) ^^ coeff e k) := by
  rcases Nat.lt_or_ge k 63 with hk | hk
  case inl =>
    rw [coeff_low (by omega), gfDouble_low_getLsbD e (by omega), coeff_low (k := k) (by omega),
      Nat.add_sub_add_right 63 1 k]
    rfl
  case inr =>
    have hred : [1, 2, 7].contains (k + 1) = false := by simp; omega
    rw [coeff_high (by omega), hred, Bool.and_false, Bool.false_xor, gfDouble, BitVec.getLsbD_or,
      BitVec.getLsbD_ushiftRight, BitVec.getLsbD_shiftLeft]
    rcases Nat.eq_or_lt_of_le hk with rfl | hlt
    · simp [coeff_low]
    · rw [coeff_high (by omega), show 1 + (127 - (k + 1)) = 127 - k by omega]
      simp; omega

/-- Settles O29: Double by its coefficients, and RED by evaluating the sixteen nibbles. -/
theorem doubleMultipliesByX : Obligations.DoubleMultipliesByX := by
  have hred : ∀ m < 16, gfDouble (gfDouble (gfDouble (gfDouble ⟨0, BitVec.ofNat 64 m⟩)))
      = ⟨(redTable.getD m 0).setWidth 64 <<< 48, 0⟩ := by decide
  exact ⟨fun e => ⟨coeff_gfDouble_zero e, fun _ hk => coeff_gfDouble_succ e hk⟩, hred⟩

theorem gfDouble_gfAdd (a b : Elem) : gfDouble (gfAdd a b) = gfAdd (gfDouble a) (gfDouble b) := by
  refine elem_ext fun k hk => ?_
  cases k with
  | zero => simp only [coeff_gfAdd, coeff_gfDouble_zero]
  | succ k =>
    simp only [coeff_gfAdd, coeff_gfDouble_succ _ (Nat.lt_of_succ_lt_succ hk), Bool.and_xor_distrib_right,
      Bool.xor_assoc, Bool.xor_left_comm (coeff a k)]

@[simp] theorem gfDouble_zero : gfDouble Elem.zero = Elem.zero := by decide

theorem iterate_gfDouble_gfAdd (n : Nat) (a b : Elem) :
    gfDouble^[n] (gfAdd a b) = gfAdd (gfDouble^[n] a) (gfDouble^[n] b) := by
  induction n generalizing a b with
  | zero => rfl
  | succ n ih => simp only [Function.iterate_succ_apply, gfDouble_gfAdd, ih]

@[simp] theorem iterate_gfDouble_zero (n : Nat) : gfDouble^[n] Elem.zero = Elem.zero :=
  Function.iterate_fixed gfDouble_zero n

/-! ## Four doublings at once (R106) -/

/-- Where nothing is shifted out, doubling only moves the coefficients up. -/
theorem coeff_iterate_gfDouble {n : Nat} (hn : n ≤ 128) {e : Elem} (h : ∀ k < 128, 128 - n ≤ k → coeff e k = false)
    {k : Nat} (hk : k < 128) : coeff (gfDouble^[n] e) k = (decide (n ≤ k) && coeff e (k - n)) := by
  induction n generalizing k with
  | zero => simp
  | succ n ih =>
    have hstep := fun {j} => ih (by omega) (fun k hk hle => h k hk (by omega)) (k := j)
    have htop : coeff (gfDouble^[n] e) 127 = false := by
      rw [hstep (by omega), h (127 - n) (by omega) (by omega), Bool.and_false]
    rw [Function.iterate_succ_apply']
    cases k with
    | zero => rw [coeff_gfDouble_zero, htop]; simp
    | succ k => rw [coeff_gfDouble_succ _ (by omega), htop, hstep (by omega)]; simp

/-- z·x⁴ without the reduction: the coefficients move up by four, and the last four are lost. -/
def shiftUp4 (z : Elem) : Elem := ⟨z.low >>> 4, (z.high >>> 4) ||| (z.low <<< 60)⟩

theorem coeff_shiftUp4 (z : Elem) {k : Nat} (hk : k < 128) :
    coeff (shiftUp4 z) k = (decide (4 ≤ k) && coeff z (k - 4)) := by
  rcases Nat.lt_or_ge k 64 with h64 | h64
  case inl =>
    rw [coeff_low h64, coeff_low (by omega), shiftUp4, BitVec.getLsbD_ushiftRight]
    by_cases h4 : 4 ≤ k
    · simp [h4, show 4 + (63 - k) = 63 - (k - 4) by omega]
    · simp [h4, show 64 ≤ 4 + (63 - k) by omega]
  case inr =>
    rw [coeff_high h64, shiftUp4, BitVec.getLsbD_or, BitVec.getLsbD_ushiftRight, BitVec.getLsbD_shiftLeft]
    by_cases h68 : k < 68
    · rw [BitVec.getLsbD_of_ge z.high _ (by omega), coeff_low (by omega), show 127 - k - 60 = 63 - (k - 4) by omega]
      simp [show 4 ≤ k ∧ 127 - k < 64 ∧ ¬ 127 - k < 60 by omega]
    · rw [coeff_high (by omega), show 4 + (127 - k) = 127 - (k - 4) by omega]
      simp [show 4 ≤ k ∧ 127 - k < 60 by omega]

/-- The coefficients of x^124 to x^127 of an element, and no others. -/
def lastNibble (z : Elem) : Elem := ⟨0, (z.high.extractLsb' 0 4).setWidth 64⟩

theorem coeff_lastNibble (z : Elem) {k : Nat} (hk : k < 128) :
    coeff (lastNibble z) k = (decide (124 ≤ k) && coeff z k) := by
  rcases Nat.lt_or_ge k 64 with h64 | h64
  case inl => rw [coeff_low h64, decide_eq_false (by omega), Bool.false_and]; exact BitVec.getLsbD_zero
  case inr =>
    rw [coeff_high h64, coeff_high h64, lastNibble, BitVec.getLsbD_setWidth, BitVec.getLsbD_extractLsb', Nat.zero_add]
    simp [show 127 - k < 64 by omega, show 127 - k < 4 ↔ 124 ≤ k by omega]

/-- Four doublings of the last nibble give its entry of RED (R105). -/
theorem iterate_gfDouble_lastNibble (z : Elem) :
    gfDouble^[4] (lastNibble z) = ⟨(redTable.getD (z.high.extractLsb' 0 4).toNat 0).setWidth 64 <<< 48, 0⟩ := by
  rw [lastNibble, ← BitVec.ofNat_toNat]
  exact doubleMultipliesByX.2 _ (z.high.extractLsb' 0 4).isLt

/-- Without its last nibble an element only moves up in four doublings. -/
theorem iterate_gfDouble_without_lastNibble (z : Elem) : gfDouble^[4] (gfAdd z (lastNibble z)) = shiftUp4 z := by
  have hcoeff : ∀ k < 128, coeff (gfAdd z (lastNibble z)) k = (decide (k < 124) && coeff z k) := fun k hk => by
    rw [coeff_gfAdd, coeff_lastNibble z hk]
    by_cases h : 124 ≤ k
    · simp [h]
    · simp [h, Nat.lt_of_not_le h]
  refine elem_ext fun k hk => ?_
  rw [coeff_iterate_gfDouble (by omega) (fun j hj hle => by rw [hcoeff j hj]; simp; omega) hk, coeff_shiftUp4 z hk,
    hcoeff _ (by omega), decide_eq_true (p := k - 4 < 124) (by omega), Bool.true_and]

/-- The shift of the table multiply is four doublings. -/
theorem gfShift4_eq (z : Elem) : gfShift4 z = gfDouble^[4] z :=
  calc gfShift4 z = gfAdd (shiftUp4 z) (gfDouble^[4] (lastNibble z)) := by
        rw [iterate_gfDouble_lastNibble]
        exact congrArg₂ Elem.mk rfl BitVec.xor_zero.symm
    _ = gfDouble^[4] (gfAdd (gfAdd z (lastNibble z)) (lastNibble z)) := by
        rw [iterate_gfDouble_gfAdd _ (gfAdd _ _), iterate_gfDouble_without_lastNibble]
    _ = gfDouble^[4] z := by rw [gfAdd_assoc, gfAdd_self, gfAdd_zero]

end Sys2Proof.Machine
end
section
/-! SUPPORT. The field product as a sum of multiples of a factor, the product table, and the table multiply
(41_gf128.md R100, R103 to R106). -/

namespace Sys2Proof.Machine

-- One proof at a time: proofs elaborated at once need more memory for thread stacks than the limit allows.
set_option Elab.async false

/-! ## Sums of multiples of one factor -/

/-- The sum of x^k·b over the k below n at which c is 1. -/
def polyMul (c : Nat → Bool) (b : Elem) : Nat → Elem
  | 0 => Elem.zero
  | n + 1 => gfAdd (polyMul c b n) (if c n then gfDouble^[n] b else Elem.zero)

/-- The field product takes its sum over the coefficients of the first factor (R100). -/
theorem fieldMul_eq (a b : Elem) : fieldMul a b = polyMul (coeff a) b 128 := by
  suffices h : ∀ n, ((List.range n).filter (coeff a)).foldl (fun z k => gfAdd z (gfDouble^[k] b)) Elem.zero
      = polyMul (coeff a) b n from h 128
  intro n
  induction n with
  | zero => rfl
  | succ n ih =>
    rw [List.range_succ, List.filter_append, List.foldl_append, ih, polyMul]
    cases h : coeff a n <;> simp [h]

section
variable {c d : Nat → Bool} {b : Elem} {n : Nat}

theorem polyMul_congr (h : ∀ k < n, c k = d k) : polyMul c b n = polyMul d b n := by
  induction n with
  | zero => rfl
  | succ n ih => rw [polyMul, polyMul, ih fun k hk => h k (Nat.lt_succ_of_lt hk), h n (Nat.lt_succ_self n)]

theorem polyMul_eq_zero (h : ∀ k < n, c k = false) : polyMul c b n = Elem.zero := by
  induction n with
  | zero => rfl
  | succ n ih =>
    rw [polyMul, ih fun k hk => h k (Nat.lt_succ_of_lt hk), h n (Nat.lt_succ_self n)]
    exact gfAdd_zero _

/-- The product is linear in the factor that gives the coefficients. -/
theorem polyMul_xor : polyMul (fun k => c k ^^ d k) b n = gfAdd (polyMul c b n) (polyMul d b n) := by
  induction n with
  | zero => exact (gfAdd_zero _).symm
  | succ n ih =>
    have hterm : (if c n ^^ d n then gfDouble^[n] b else Elem.zero)
        = gfAdd (if c n then gfDouble^[n] b else Elem.zero) (if d n then gfDouble^[n] b else Elem.zero) := by
      cases hc : c n <;> cases hd : d n <;> simp
    rw [polyMul, ih, hterm, gfAdd_gfAdd_gfAdd_comm, polyMul, polyMul]

/-- Horner's rule: the terms from m on are x^m times a sum of their own. -/
theorem polyMul_add (c : Nat → Bool) (b : Elem) (m n : Nat) :
    polyMul c b (m + n) = gfAdd (polyMul c b m) (gfDouble^[m] (polyMul (fun k => c (m + k)) b n)) := by
  induction n with
  | zero => simp [polyMul]
  | succ n ih =>
    rw [← Nat.add_assoc, polyMul, ih, gfAdd_assoc, polyMul, iterate_gfDouble_gfAdd]
    cases c (m + n) <;> simp [Function.iterate_add_apply]

end

theorem fieldMul_gfAdd (a a' b : Elem) : fieldMul (gfAdd a a') b = gfAdd (fieldMul a b) (fieldMul a' b) := by
  simp only [fieldMul_eq, ← polyMul_xor, ← coeff_gfAdd]

/-! ## The product table (R103, R104) -/

theorem bitrev4_lt : ∀ j < 16, bitrev4 j < 16 := by decide

theorem bitrev4_bitrev4 : ∀ j < 16, bitrev4 (bitrev4 j) = j := by decide

theorem bitrev4_testBit : ∀ j < 16, ∀ k < 4, (bitrev4 j).testBit k = j.testBit (3 - k) := by decide

/-- Of the entries taken in bit-reversed order, a write changes the one it writes. -/
theorem tableEntry_set_bitrev4 {p : List Elem} (hp : p.length = 16) {i j : Nat} (hi : i < 16) (hj : j < 16) (x : Elem) :
    tableEntry (p.set (bitrev4 i) x) (bitrev4 j) = if i = j then x else tableEntry p (bitrev4 j) := by
  have hinj : bitrev4 i = bitrev4 j ↔ i = j :=
    ⟨fun h => by rw [← bitrev4_bitrev4 i hi, h, bitrev4_bitrev4 j hj], congrArg bitrev4⟩
  have hlt : bitrev4 i < p.length := hp ▸ bitrev4_lt i hi
  rw [tableEntry, List.getD, List.getElem?_set, if_pos hlt]
  simp only [hinj]
  split_ifs <;> rfl

/-- The entries filled from the indices below n, in the order TableBuild fills them: the entry from i is the sum of
x^k·e over the bits k of i. -/
def FilledBelow (e : Elem) (n : Nat) (p : List Elem) : Prop :=
  p.length = 16 ∧ ∀ i < n, tableEntry p (bitrev4 i) = polyMul i.testBit e 4

/-- Horner's rule on the bits of an index: its sum is made from that of half the index. -/
theorem polyMul_testBit {i : Nat} (e : Elem) (hi : i < 16) :
    polyMul i.testBit e 4 = gfAdd (gfDouble (polyMul (i / 2).testBit e 4)) (if i % 2 = 1 then e else Elem.zero) := by
  have htop : (i / 2).testBit 3 = false := Nat.testBit_lt_two_pow (by omega)
  have hhalf : polyMul (i / 2).testBit e 4 = polyMul (fun k => i.testBit (1 + k)) e 3 := by
    rw [polyMul, htop, if_neg Bool.false_ne_true, gfAdd_zero]
    exact polyMul_congr fun k _ => by rw [Nat.add_comm, Nat.testBit_succ]
  have hfirst : polyMul i.testBit e 1 = if i % 2 = 1 then e else Elem.zero := by
    simp [polyMul, Nat.testBit_zero]
  rw [polyMul_add _ _ 1 3, hhalf, hfirst, Function.iterate_one, gfAdd_comm]

/-- The two writes for index 2m fill two entries more and keep those filled before. -/
theorem tableStep_fills {e : Elem} {m : Nat} {p : List Elem} (hm0 : 0 < m) (hm : m < 8) (h : FilledBelow e (2 * m) p) :
    FilledBelow e (2 * m + 2) (tableStep e p (2 * m)) := by
  obtain ⟨hlen, hfilled⟩ := h
  have heven : polyMul (2 * m).testBit e 4 = gfDouble (tableEntry p (bitrev4 (2 * m / 2))) := by
    rw [polyMul_testBit e (by omega), hfilled _ (by omega), if_neg (by omega), gfAdd_zero]
  have hodd : polyMul (2 * m + 1).testBit e 4 = gfAdd (gfDouble (tableEntry p (bitrev4 (2 * m / 2)))) e := by
    rw [polyMul_testBit e (by omega), hfilled _ (by omega), if_pos (by omega),
      show (2 * m + 1) / 2 = 2 * m / 2 by omega]
  refine ⟨by simp [tableStep, hlen], fun i hi => ?_⟩
  simp only [tableStep]
  rw [tableEntry_set_bitrev4 (by rw [List.length_set, hlen]) (by omega) (by omega),
    tableEntry_set_bitrev4 hlen (by omega) (by omega), tableEntry_set_bitrev4 hlen (by omega) (by omega), if_pos rfl]
  split_ifs with hsecond hfirst
  · rw [← hsecond, hodd]
  · rw [← hfirst, heven]
  · exact hfilled i (by omega)

/-- The steps for the indices 2 to 2m, one after another. -/
theorem tableSteps_fill {e : Elem} {p : List Elem} (h : FilledBelow e 2 p) {m : Nat} (hm : m ≤ 7) :
    FilledBelow e (2 * (m + 1)) (((List.range m).map fun k => 2 * (k + 1)).foldl (tableStep e) p) := by
  induction m with
  | zero => exact h
  | succ m ih =>
    rw [List.range_succ, List.map_append, List.foldl_append]
    exact tableStep_fills m.succ_pos (by omega) (ih (by omega))

/-- TableBuild starts with the entries from the indices 0 and 1 in place, and its steps fill the others. -/
theorem tableBuild_filled (h : Block) : FilledBelow (elemOfBlock h) 16 (tableBuild h) := by
  have hzero : polyMul (Nat.testBit 0) (elemOfBlock h) 4 = Elem.zero := polyMul_eq_zero fun k _ => Nat.zero_testBit k
  have hone : polyMul (Nat.testBit 1) (elemOfBlock h) 4 = elemOfBlock h := by
    rw [polyMul_testBit _ (by omega), show 1 / 2 = 0 from rfl, hzero, gfDouble_zero]
    exact zero_gfAdd _
  have hinit : FilledBelow (elemOfBlock h) 2 ((List.replicate 16 Elem.zero).set (bitrev4 1) (elemOfBlock h)) := by
    refine ⟨rfl, fun i hi => ?_⟩
    match i with
    | 0 => exact hzero.symm
    | 1 => exact hone.symm
  exact tableSteps_fill hinit (m := 7) le_rfl

/-- Entry j is the sum of x^k·H over the bits of j, the top one first. -/
theorem tableEntry_eq (h : Block) {j : Nat} (hj : j < 16) :
    tableEntry (tableBuild h) j = polyMul (fun k => j.testBit (3 - k)) (elemOfBlock h) 4 := by
  have hentry := (tableBuild_filled h).2 (bitrev4 j) (bitrev4_lt j hj)
  rw [bitrev4_bitrev4 j hj] at hentry
  rw [hentry]
  exact polyMul_congr (bitrev4_testBit j hj)

/-- The first four coefficients of the element whose top four bits are j are the bits of j; the others are 0. -/
theorem coeff_topNibble (j : Nat) {k : Nat} (hk : k < 128) :
    coeff ⟨BitVec.ofNat 64 j <<< 60, 0⟩ k = (decide (k < 4) && j.testBit (3 - k)) := by
  rcases Nat.lt_or_ge k 64 with h64 | h64
  case inl =>
    rw [coeff_low h64, BitVec.getLsbD_shiftLeft, BitVec.getLsbD_ofNat]
    by_cases h4 : k < 4
    · simp [h4, show 63 - k - 60 = 3 - k by omega, show 63 - k < 64 ∧ ¬ 63 - k < 60 ∧ 3 - k < 64 by omega]
    · simp [h4, show 63 - k < 60 by omega]
  case inr =>
    rw [coeff_high h64, decide_eq_false (by omega), Bool.false_and]
    exact BitVec.getLsbD_zero

/-- Settles O30: the product with the nibble's element has the four terms that make the entry. -/
theorem tableEntriesAreMultiplesOfH : Obligations.TableEntriesAreMultiplesOfH := by
  intro h
  refine ⟨(tableBuild_filled h).1, fun j hj => ?_⟩
  have hrest : polyMul (fun k => coeff ⟨BitVec.ofNat 64 j <<< 60, 0⟩ (4 + k)) (elemOfBlock h) 124 = Elem.zero :=
    polyMul_eq_zero fun k hk => by
      rw [coeff_topNibble j (by omega), decide_eq_false (by omega), Bool.false_and]
  rw [fieldMul_eq, polyMul_add _ _ 4 124, hrest, iterate_gfDouble_zero, gfAdd_zero, tableEntry_eq h hj]
  exact polyMul_congr fun k hk => by rw [coeff_topNibble j (by omega), decide_eq_true hk, Bool.true_and]

/-! ## The table multiply (R106) -/

/-- One nibble: its four terms, and the accumulator moved up by x⁴. -/
theorem mulNibble_eq (h : Block) (z : Elem) (w : DWord) :
    mulNibble (tableBuild h) z (w.extractLsb' 0 4).toNat
      = gfAdd (polyMul (fun j => w.getLsbD (3 - j)) (elemOfBlock h) 4) (gfDouble^[4] z) := by
  have hbits : polyMul (fun j => (w.extractLsb' 0 4).toNat.testBit (3 - j)) (elemOfBlock h) 4
      = polyMul (fun j => w.getLsbD (3 - j)) (elemOfBlock h) 4 := polyMul_congr fun j _ => by
    rw [BitVec.testBit_toNat, BitVec.getLsbD_extractLsb', Nat.zero_add, decide_eq_true (by omega), Bool.true_and]
  rw [mulNibble, gfShift4_eq, tableEntry_eq h (w.extractLsb' 0 4).isLt, hbits, gfAdd_comm]

/-- k nibbles of a word: a term for each of their bits, the most significant bit the lowest power of x, and the
accumulator moved up past them. -/
theorem mulWord_eq (h : Block) (k : Nat) (w : DWord) (z : Elem) :
    mulWord (tableBuild h) k w z
      = gfAdd (polyMul (fun j => w.getLsbD (4 * k - 1 - j)) (elemOfBlock h) (4 * k)) (gfDouble^[4 * k] z) := by
  induction k generalizing w z with
  | zero => exact (zero_gfAdd z).symm
  | succ k ih =>
    have hupper : polyMul (fun j => (w >>> 4).getLsbD (4 * k - 1 - j)) (elemOfBlock h) (4 * k)
        = polyMul (fun j => w.getLsbD (4 * (k + 1) - 1 - j)) (elemOfBlock h) (4 * k) := polyMul_congr fun j hj => by
      rw [BitVec.getLsbD_ushiftRight, show 4 + (4 * k - 1 - j) = 4 * (k + 1) - 1 - j by omega]
    have hlower : polyMul (fun j => w.getLsbD (3 - j)) (elemOfBlock h) 4
        = polyMul (fun j => w.getLsbD (4 * (k + 1) - 1 - (4 * k + j))) (elemOfBlock h) 4 := polyMul_congr fun j hj => by
      rw [show 4 * (k + 1) - 1 - (4 * k + j) = 3 - j by omega]
    rw [mulWord, ih, mulNibble_eq, hupper, hlower, iterate_gfDouble_gfAdd, ← gfAdd_assoc, ← polyMul_add,
      ← Function.iterate_add_apply, Nat.mul_succ]

/-- Settles O31: the high word gives the terms from x^64 on, the low word the terms below. -/
theorem tableMultiplyIsTheFieldProduct : Obligations.TableMultiplyIsTheFieldProduct := by
  intro h y
  have hlow : polyMul (fun j => y.low.getLsbD (63 - j)) (elemOfBlock h) 64 = polyMul (coeff y) (elemOfBlock h) 64 :=
    polyMul_congr fun j hj => (coeff_low hj).symm
  have hhigh : polyMul (fun j => y.high.getLsbD (63 - j)) (elemOfBlock h) 64
      = polyMul (fun j => coeff y (64 + j)) (elemOfBlock h) 64 := polyMul_congr fun j _ => by
    rw [coeff_high (Nat.le_add_right 64 j), show 127 - (64 + j) = 63 - j by omega]
  rw [fieldMul_eq, polyMul_add _ _ 64 64, ← hlow, ← hhigh, gfMul, mulWord_eq, mulWord_eq, iterate_gfDouble_zero,
    gfAdd_zero]

end Sys2Proof.Machine
end

section
/-! SUPPORT. The multiply, Update and GHASH are linear (41_gf128.md R106 to R109). -/

namespace Sys2Proof.Machine

-- One proof at a time: proofs elaborated at once need more memory for thread stacks than the limit allows.
set_option Elab.async false

/-- The multiply is linear: the field product is. -/
theorem gfMul_gfAdd (h : Block) (u v : Elem) :
    gfMul (tableBuild h) (gfAdd u v) = gfAdd (gfMul (tableBuild h) u) (gfMul (tableBuild h) v) := by
  simp only [tableMultiplyIsTheFieldProduct h, fieldMul_gfAdd]

theorem gfAbsorb_gfAdd_xor (h : Block) (u v : Elem) (b c : Block) :
    gfAbsorb (tableBuild h) (gfAdd u v) (b ^^^ c)
      = gfAdd (gfAbsorb (tableBuild h) u b) (gfAbsorb (tableBuild h) v c) := by
  rw [gfAbsorb, elemOfBlock_xor, gfAdd_gfAdd_gfAdd_comm, gfMul_gfAdd, gfAbsorb, gfAbsorb]

/-! ## Strings XORed byte by byte -/

theorem xorBytes_getD {a b : Bytes} (h : a.length = b.length) (j : Nat) :
    (xorBytes a b).getD j 0 = a.getD j 0 ^^^ b.getD j 0 := by
  rw [List.getD, List.getD, List.getD, xorBytes, List.getElem?_zipWith]
  by_cases hj : j < a.length
  · rw [List.getElem?_eq_getElem hj, List.getElem?_eq_getElem (h ▸ hj)]; rfl
  · rw [List.getElem?_eq_none (by omega), List.getElem?_eq_none (l := b) (by omega)]; rfl

theorem blockOf_xorBytes {a b : Bytes} (h : a.length = b.length) : blockOf (xorBytes a b) = blockOf a ^^^ blockOf b :=
  block_ext fun j hj => by
    rw [blockByte_xor, blockByte_blockOf hj, blockByte_blockOf hj, blockByte_blockOf hj, xorBytes_getD h]

/-- The blocks of an XOR of two strings are the XORs of their blocks. -/
theorem blocksOf_xorBytes {a b : Bytes} (h : a.length = b.length) :
    blocksOf (xorBytes a b) = List.zipWith (· ^^^ ·) (blocksOf a) (blocksOf b) := by
  refine List.ext_getElem? fun i => ?_
  rw [List.getElem?_zipWith, blocksOf_getElem?, blocksOf_getElem?, blocksOf_getElem?, xorBytes_length, ← h,
    Nat.min_self]
  split_ifs
  · have hdrop : (xorBytes a b).drop (16 * i) = xorBytes (a.drop (16 * i)) (b.drop (16 * i)) := List.drop_zipWith
    rw [hdrop, blockOf_xorBytes (by rw [List.length_drop, List.length_drop, h])]
  · rfl

theorem xorBytes_zeros {a : Bytes} {n : Nat} (h : a.length = n) : xorBytes a (zeros n) = a := by
  subst h
  refine List.ext_getElem (by simp) fun j hj _ => ?_
  simp [xorBytes, zeros]

/-! ## Update and GHASH (R107 to R109) -/

theorem foldl_gfAbsorb_xor (h : Block) (u v : Elem) {as bs : List Block} (hlen : as.length = bs.length) :
    (List.zipWith (· ^^^ ·) as bs).foldl (gfAbsorb (tableBuild h)) (gfAdd u v)
      = gfAdd (as.foldl (gfAbsorb (tableBuild h)) u) (bs.foldl (gfAbsorb (tableBuild h)) v) := by
  induction as generalizing bs u v with
  | nil => cases bs with
    | nil => rfl
    | cons => cases hlen
  | cons a as ih => cases bs with
    | nil => cases hlen
    | cons b bs =>
      rw [List.zipWith_cons_cons, List.foldl_cons, gfAbsorb_gfAdd_xor, ih _ _ (Nat.succ.inj hlen)]
      rfl

theorem gfUpdate_gfAdd_xorBytes (h : Block) (u v : Elem) {a b : Bytes} (hlen : a.length = b.length) :
    gfUpdate (tableBuild h) (gfAdd u v) (xorBytes a b)
      = gfAdd (gfUpdate (tableBuild h) u a) (gfUpdate (tableBuild h) v b) := by
  have hblocks : (blocksOf a).length = (blocksOf b).length := by rw [blocksOf_length, blocksOf_length, hlen]
  rw [gfUpdate, blocksOf_xorBytes hlen, foldl_gfAbsorb_xor h u v hblocks, gfUpdate, gfUpdate]

/-- GHASH of two strings, the lengths block given. -/
def ghashWith (p : List Elem) (aad ct lengths : Bytes) : Block :=
  blockOfElem (gfUpdate p (gfUpdate p (gfUpdate p Elem.zero aad) ct) lengths)

theorem ghash_eq (p : List Elem) (aad ct : Bytes) : ghash p aad ct = ghashWith p aad ct (lengthsBlock aad ct) := rfl

theorem ghashWith_xorBytes (h : Block) {a a' c c' l l' : Bytes} (ha : a.length = a'.length) (hc : c.length = c'.length)
    (hl : l.length = l'.length) : ghashWith (tableBuild h) (xorBytes a a') (xorBytes c c') (xorBytes l l')
      = ghashWith (tableBuild h) a c l ^^^ ghashWith (tableBuild h) a' c' l' := by
  have hstart : Elem.zero = gfAdd Elem.zero Elem.zero := (gfAdd_zero _).symm
  rw [ghashWith, hstart, gfUpdate_gfAdd_xorBytes h _ _ ha, gfUpdate_gfAdd_xorBytes h _ _ hc,
    gfUpdate_gfAdd_xorBytes h _ _ hl, blockOfElem_gfAdd, ghashWith, ghashWith]

theorem lengthsBlock_congr {a b c d : Bytes} (hab : a.length = b.length) (hcd : c.length = d.length) :
    lengthsBlock a c = lengthsBlock b d := by
  rw [lengthsBlock, hab, hcd, lengthsBlock]

/-- The third law of R109: the lengths block, the same in all four, is three times XORed into itself. -/
theorem ghash_xorBytes (h : Block) {a b c d : Bytes} (hab : a.length = b.length) (hcd : c.length = d.length) :
    ghash (tableBuild h) (xorBytes a b) (xorBytes c d)
      = ghash (tableBuild h) a c ^^^ ghash (tableBuild h) b d
        ^^^ ghash (tableBuild h) (zeros a.length) (zeros c.length) := by
  have hxor {x y : Bytes} (h : x.length = y.length) : (xorBytes x y).length = x.length := by
    rw [xorBytes_length, ← h, Nat.min_self]
  have hzeros (x : Bytes) : x.length = (zeros x.length).length := (zeros_length _).symm
  have hL : lengthsBlock (xorBytes a b) (xorBytes c d) = lengthsBlock a c := lengthsBlock_congr (hxor hab) (hxor hcd)
  have hLbd : lengthsBlock b d = lengthsBlock a c := lengthsBlock_congr hab.symm hcd.symm
  have hLzeros : lengthsBlock (zeros a.length) (zeros c.length) = lengthsBlock a c :=
    lengthsBlock_congr (hzeros a).symm (hzeros c).symm
  have hthrice : xorBytes (xorBytes (lengthsBlock a c) (lengthsBlock a c)) (lengthsBlock a c) = lengthsBlock a c :=
    xorBytes_xorBytes le_rfl
  rw [ghash_eq, ghash_eq, ghash_eq, ghash_eq, hL, hLbd, hLzeros, ← ghashWith_xorBytes h hab hcd rfl,
    ← ghashWith_xorBytes h ((hxor hab).trans (hzeros a)) ((hxor hcd).trans (hzeros c)) (hxor rfl),
    xorBytes_zeros (hxor hab), xorBytes_zeros (hxor hcd), hthrice]

/-- Settles O32: the three laws of R109. -/
theorem ghashIsAffine : Obligations.GhashIsAffine := by
  intro h
  refine ⟨gfMul_gfAdd h, fun a b hlen => ?_, fun a b c d hab hcd => ghash_xorBytes h hab hcd⟩
  rw [← gfUpdate_gfAdd_xorBytes h _ _ hlen, gfAdd_zero]

end Sys2Proof.Machine
end

section
/-! SUPPORT. The commands of the GF(2^128) engine complete (41_gf128.md R110 to R112). -/

namespace Sys2Proof.Machine

-- One proof at a time: proofs elaborated at once need more memory for thread stacks than the limit allows.
set_option Elab.async false

/-! ## GF.MUL and GF.UPD (R111, R112) -/

/-- The accumulator after the first k blocks of a string (R107). -/
def gfHorner (p : List Elem) (y : Elem) (data : Bytes) (k : Nat) : Elem := ((blocksOf data).take k).foldl (gfAbsorb p) y

theorem gfHorner_zero (p : List Elem) (y : Elem) (data : Bytes) : gfHorner p y data 0 = y := rfl

theorem gfHorner_succ (p : List Elem) (y : Elem) {data : Bytes} {k : Nat} (hk : k < (data.length + 15) / 16) :
    gfHorner p y data (k + 1) = gfAbsorb p (gfHorner p y data k) (blockOf (data.drop (16 * k))) := by
  rw [gfHorner, List.take_add_one, blocksOf_getElem?, if_pos hk, Option.toList_some, List.foldl_append]
  rfl

theorem gfHorner_all (p : List Elem) (y : Elem) (data : Bytes) :
    gfHorner p y data ((data.length + 15) / 16) = gfUpdate p y data := by
  rw [gfHorner, ← blocksOf_length, List.take_length, gfUpdate]

theorem gfMul_completes {s : State} (hf : s.fault = false) (hv : s.tblV = true) :
    exec .gfMul s = .next { s with y := gfMul s.tbl s.y, err := none, outLen := 0 } :=
  exec_of_pass hf (List.forall_mem_singleton.mpr (seqCheck_fails.mpr hv))

theorem gfUpd_completes {s : State} (hf : s.fault = false) (hv : s.tblV = true)
    (hsrc : InMemory s s.srcAddr.toNat s.srcLen.toNat) :
    exec .gfUpd s = .next { s with y := gfUpdate s.tbl s.y (s.fetchAll .src), err := none, outLen := 0 } := by
  have hbus : (s.busCheck [s.whole .src]).fails = false := busCheck_fails.mpr (List.forall_mem_singleton.mpr hsrc)
  exact exec_of_pass hf (List.forall_mem_cons.mpr ⟨seqCheck_fails.mpr hv, List.forall_mem_singleton.mpr hbus⟩)

/-- Settles O34: the table multiply is the field product, and GF.UPD's Y(k) is the accumulator after k blocks of src. -/
theorem gfDataCommandsComplete : Obligations.GfDataCommandsComplete := by
  intro s h hf hv htbl
  have hmul := tableMultiplyIsTheFieldProduct h
  refine ⟨by rw [gfMul_completes hf hv, htbl, hmul], fun hsrc => ?_⟩
  have hlen : (s.fetchAll .src).length = s.srcLen.toNat := fetch_length ..
  refine ⟨gfHorner s.tbl s.y (s.fetchAll .src), rfl, fun k hk => ?_, ?_⟩
  · rw [gfHorner_succ s.tbl s.y (hlen.symm ▸ hk), gfAbsorb, htbl, hmul]
    rfl
  · rw [gfUpd_completes hf hv hsrc, ← gfHorner_all, hlen]

/-! ## GF.INIT (R110) -/

theorem tableOwned_iff (s : State) :
    s.tableOwned = true ↔ s.active ∈ [some ModeUnit.hctr, some .gcm, some .gxm, some .mur] := by
  simp only [State.tableOwned, Bool.or_eq_true, bound_iff, List.mem_cons, List.not_mem_nil, or_false, or_assoc]

/-- GF.INIT with its checks passing: what is left to say is whether it unbinds. -/
theorem gfInit_completes {s : State} (hf : s.fault = false) (hlen : s.auxLen.toNat = 16)
    (haux : InMemory s s.auxAddr.toNat 16) :
    exec .gfInit s = .next
      (((if s.tableOwned then s.unbind else s).loadTable (s.mem.block s.auxAddr.toNat)).finish 0) := by
  have hsize : (failIf (s.len .aux ≠ 16) .keySize).fails = false := failIf_decide_fails.mpr (not_not.mpr hlen)
  have hbus : (s.busCheck [s.region .aux 16]).fails = false := busCheck_fails.mpr (List.forall_mem_singleton.mpr haux)
  exact exec_of_pass hf (List.forall_mem_cons.mpr ⟨hsize, List.forall_mem_singleton.mpr hbus⟩)

/-- Settles O33: the bound unit owns the table, and is unbound, or it stays. -/
theorem gfInitCompletes : Obligations.GfInitCompletes := by
  intro s hf hlen haux
  rw [gfInit_completes hf hlen haux]
  refine ⟨fun howned => ?_, fun hfree => ?_⟩
  · rw [if_pos ((tableOwned_iff s).mpr howned)]; rfl
  · rw [if_neg (mt (tableOwned_iff s).mp hfree)]; rfl

end Sys2Proof.Machine
end

section
/-! SUPPORT. The two counter increments as numbers (42_gcm.md R124, 43_block_stream_modes.md R164). -/

namespace Sys2Proof.Machine

/-- An appended string of bits as a number: the high part moved up, plus the low part. -/
theorem toNat_append_eq_add {m k : Nat} (a : BitVec m) (b : BitVec k) :
    (a ++ b).toNat = a.toNat * 2 ^ k + b.toNat := by
  rw [BitVec.toNat_append, ← Nat.shiftLeft_add_eq_or_of_lt b.isLt, Nat.shiftLeft_eq]

/-- `inc32` is addition in the low 32 bits, the rest kept. -/
theorem inc32_toNat (cb : Block) :
    (inc32 cb).toNat = cb.toNat / 2 ^ 32 * 2 ^ 32 + (cb.toNat % 2 ^ 32 + 1) % 2 ^ 32 := by
  have hhigh : (cb.extractLsb' 32 96).toNat = cb.toNat / 2 ^ 32 := by
    rw [BitVec.extractLsb'_toNat, Nat.shiftRight_eq_div_pow, Nat.mod_eq_of_lt]
    exact Nat.div_lt_of_lt_mul cb.isLt
  have hlow : (cb.extractLsb' 0 32).toNat = cb.toNat % 2 ^ 32 := BitVec.extractLsb'_toNat ..
  rw [inc32, toNat_append_eq_add, BitVec.toNat_add, hhigh, hlow]
  rfl

/-- Settles O49: `inc32` by its two parts (`inc32_toNat`), `inc128` as addition of 128-bit numbers. -/
theorem counterIncrements : Obligations.CounterIncrements :=
  fun cb => ⟨inc32_toNat cb, BitVec.toNat_add cb 1⟩

end Sys2Proof.Machine
end

section
/-! SUPPORT. The INIT commands of the AEAD units complete (42_gcm.md R121; 45_ccm_gxm_mur.md R203, R212, R220). -/

namespace Sys2Proof.Machine

variable {s : State}

/-- The tag size checks of GCM, GXM and MUR pass exactly on the sizes from the unit's least one to 16. -/
theorem tagSizeCheck_fails {least : Nat} :
    (failIf (s.cfgTag < least || s.cfgTag > 16) .tagSize).fails = false ↔
      least ≤ s.cfgTagLen.toNat ∧ s.cfgTagLen.toNat ≤ 16 := by
  rw [failIf_fails, Bool.or_eq_false_iff, decide_eq_false_iff_not, decide_eq_false_iff_not, Nat.not_lt, Nat.not_lt]
  rfl

theorem gcmInit_pass :
    ChecksPass .gcmInit s ↔ s.ks0.valid = true ∧ (12 ≤ s.cfgTagLen.toNat ∧ s.cfgTagLen.toNat ≤ 16)
      ∧ s.ivLen.toNat ≠ 0 := by
  simp only [ChecksPass, checksOf, List.forall_mem_cons, seqCheck_fails, tagSizeCheck_fails, failIf_decide_fails,
    List.not_mem_nil, false_imp_iff, implies_true, and_true]
  rfl

theorem ccmInit_pass :
    ChecksPass .ccmInit s ↔ s.ks0.valid = true ∧ s.cfgTagLen.toNat ∈ [4, 6, 8, 10, 12, 14, 16]
      ∧ 7 ≤ s.ivLen.toNat ∧ s.ivLen.toNat ≤ 13 := by
  simp only [ChecksPass, checksOf, List.forall_mem_cons, seqCheck_fails, failIf_fails, Bool.not_eq_false',
    List.contains_iff_mem, Bool.or_eq_false_iff, decide_eq_false_iff_not, Nat.not_lt, List.not_mem_nil, false_imp_iff,
    implies_true, and_true]
  rfl

/-- GXM.INIT and MUR.INIT make the same checks, each asking for its own function (R212, R220). -/
def hashKeyInitChecks (present : Bool) (s : State) : List Check :=
  [failIf (s.len .aux ≠ 16) .keySize, failIf (s.cfgTag < 8 || s.cfgTag > 16) .tagSize,
   failIf (!present) .unsupported, s.busCheck [s.region .aux 16]]

theorem hashKeyInitChecks_pass {present : Bool} :
    (∀ c ∈ hashKeyInitChecks present s, c.fails = false) ↔
      s.auxLen.toNat = 16 ∧ (8 ≤ s.cfgTagLen.toNat ∧ s.cfgTagLen.toNat ≤ 16) ∧ present = true
        ∧ InMemory s s.auxAddr.toNat 16 := by
  rw [hashKeyInitChecks, List.forall_mem_cons, List.forall_mem_cons, List.forall_mem_cons, List.forall_mem_singleton,
    failIf_decide_fails, not_ne_iff, tagSizeCheck_fails, failIf_fails, Bool.not_eq_false', busCheck_fails,
    List.forall_mem_singleton]
  rfl

theorem gxmInit_pass :
    ChecksPass .gxmInit s ↔ s.auxLen.toNat = 16 ∧ (8 ≤ s.cfgTagLen.toNat ∧ s.cfgTagLen.toNat ≤ 16)
      ∧ s.params.hasGxmKs = true ∧ InMemory s s.auxAddr.toNat 16 :=
  hashKeyInitChecks_pass

theorem murInit_pass :
    ChecksPass .murInit s ↔ s.auxLen.toNat = 16 ∧ (8 ≤ s.cfgTagLen.toNat ∧ s.cfgTagLen.toNat ≤ 16)
      ∧ s.params.hasStreamNew = true ∧ InMemory s s.auxAddr.toNat 16 :=
  hashKeyInitChecks_pass

/-- Settles O50: the checks of each INIT pass, and its effect is the state the statement writes out. -/
theorem aeadInitsComplete : Obligations.AeadInitsComplete := by
  intro s hf
  refine ⟨fun hks hmin hmax hnonce => ?gcm, fun hks htag hmin hmax => ?ccm,
    fun hlen hmin hmax haux => ⟨fun hgxm => ?gxm, fun hmur => ?mur⟩⟩
  case gcm => rw [exec_of_pass hf (gcmInit_pass.mpr ⟨hks, ⟨hmin, hmax⟩, hnonce⟩)]; rfl
  case ccm => rw [exec_of_pass hf (ccmInit_pass.mpr ⟨hks, htag, hmin, hmax⟩)]; rfl
  case gxm => rw [exec_of_pass hf (gxmInit_pass.mpr ⟨hlen, ⟨hmin, hmax⟩, hgxm, haux⟩)]; rfl
  case mur => rw [exec_of_pass hf (murInit_pass.mpr ⟨hlen, ⟨hmin, hmax⟩, hmur, haux⟩)]; rfl

end Sys2Proof.Machine
end

section
/-! SUPPORT. When SEAL and OPEN of the AEAD units pass their checks (42_gcm.md R129, R130; 45_ccm_gxm_mur.md R207, R208,
R214, R215, R224, R225), and what a sealed result is in memory. -/

namespace Sys2Proof.Machine

variable {s : State}

/-! ## The checks before the windows -/

theorem gcmSeq_fails :
    (seqCheck (s.bound .gcm && s.ks0.valid && s.tblV)).fails = false ↔
      (s.active = some .gcm ∧ s.ks0.valid = true) ∧ s.tblV = true := by
  rw [seqCheck_fails, Bool.and_eq_true, Bool.and_eq_true, bound_iff]

theorem ccmSeq_fails :
    (seqCheck (s.bound .ccm && s.ks0.valid)).fails = false ↔ s.active = some .ccm ∧ s.ks0.valid = true := by
  rw [seqCheck_fails, Bool.and_eq_true, bound_iff]

/-- GXM and MUR need their unit bound and the table. -/
theorem tableSeq_fails {u : ModeUnit} :
    (seqCheck (s.bound u && s.tblV)).fails = false ↔ s.active = some u ∧ s.tblV = true := by
  rw [seqCheck_fails, Bool.and_eq_true, bound_iff]

/-- A length check passes exactly up to the limit. -/
theorem limitCheck_fails {n limit : Nat} {e : Err} : (failIf (n > limit) e).fails = false ↔ n ≤ limit := by
  rw [failIf_decide_fails, Nat.not_lt]

theorem le_ccmMax_iff {n : Nat} :
    n ≤ ccmMax s ↔ n ≤ 2 ^ (8 * (15 - s.nonceLenL.toNat)) - 1 ∧ n ≤ 2 ^ 32 - 1 := by
  rw [ccmMax, Nat.le_min]

theorem murRegions_inMemory :
    (∀ r ∈ murRegions s, r.len = 0 ∨ r.addr + r.len ≤ s.params.memSize) ↔
      InMemory s s.ivAddr.toNat s.ivLen.toNat ∧ InMemory s s.keyAddr.toNat s.keyLen.toNat
        ∧ InMemory s s.auxAddr.toNat s.auxLen.toNat := by
  rw [murRegions, List.forall_mem_cons, List.forall_mem_cons, List.forall_mem_singleton]
  rfl

/-- The windows of an OPEN, without what follows from src being inside the memory: that its ciphertext part is. -/
theorem openWindows_iff :
    OpenWindows s ↔ s.tagLenL.toNat ≤ s.srcLen.toNat ∧ InMemory s s.srcAddr.toNat s.srcLen.toNat
      ∧ openLen s ≤ s.dstCap.toNat ∧ InMemory s s.dstAddr.toNat (openLen s)
      ∧ SameOrApart s.dstAddr.toNat (openLen s) s.srcAddr.toNat (openLen s) :=
  ⟨fun ⟨htag, hsrc, hcap, _, hdst, hapart⟩ => ⟨htag, hsrc, hcap, hdst, hapart⟩,
    fun ⟨htag, hsrc, hcap, hdst, hapart⟩ => ⟨htag, hsrc, hcap, inMemory_mono hsrc (Nat.sub_le ..), hdst, hapart⟩⟩

/-! ## SEAL and OPEN, unit by unit -/

theorem gcmSeal_pass (hf : s.fault = false) :
    ChecksPass .gcmSeal s ↔ GcmReady s s.srcLen.toNat ∧ SealWindows s := by
  rw [ChecksPass, checksOf, List.forall_mem_cons, List.forall_mem_cons, List.forall_mem_cons, sealChecks_pass,
    gcmSeq_fails, nonceCheck_fails, limitCheck_fails, List.forall_mem_singleton]
  exact ⟨fun ⟨⟨hu, htbl⟩, hnonce, hmax, hwin, haad, hiv⟩ => ⟨⟨⟨hf, hu⟩, htbl, hnonce, hmax, hiv, haad⟩, hwin⟩,
    fun ⟨⟨⟨_, hu⟩, htbl, hnonce, hmax, hiv, haad⟩, hwin⟩ => ⟨⟨hu, htbl⟩, hnonce, hmax, hwin, haad, hiv⟩⟩

theorem gcmOpen_pass (hf : s.fault = false) :
    ChecksPass .gcmOpen s ↔ GcmReady s (openLen s) ∧ OpenWindows s := by
  rw [ChecksPass, checksOf, List.forall_mem_cons, List.forall_mem_cons, List.forall_mem_cons, List.forall_mem_cons,
    openChecks_pass, gcmSeq_fails, nonceCheck_fails, shortInputCheck_fails, limitCheck_fails,
    List.forall_mem_singleton, openWindows_iff]
  exact ⟨fun ⟨⟨hu, htbl⟩, hnonce, htag, hmax, hwin, haad, hiv⟩ =>
      ⟨⟨⟨hf, hu⟩, htbl, hnonce, hmax, hiv, haad⟩, htag, hwin⟩,
    fun ⟨⟨⟨_, hu⟩, htbl, hnonce, hmax, hiv, haad⟩, htag, hwin⟩ => ⟨⟨hu, htbl⟩, hnonce, htag, hmax, hwin, haad, hiv⟩⟩

theorem ccmSeal_pass (hf : s.fault = false) :
    ChecksPass .ccmSeal s ↔ CcmReady s s.srcLen.toNat ∧ SealWindows s := by
  rw [ChecksPass, checksOf, List.forall_mem_cons, List.forall_mem_cons, List.forall_mem_cons, sealChecks_pass,
    ccmSeq_fails, nonceCheck_fails, limitCheck_fails, le_ccmMax_iff, List.forall_mem_singleton]
  exact ⟨fun ⟨hu, hnonce, ⟨hmax, hmax32⟩, hwin, haad, hiv⟩ => ⟨⟨⟨hf, hu⟩, hnonce, hmax, hmax32, hiv, haad⟩, hwin⟩,
    fun ⟨⟨⟨_, hu⟩, hnonce, hmax, hmax32, hiv, haad⟩, hwin⟩ => ⟨hu, hnonce, ⟨hmax, hmax32⟩, hwin, haad, hiv⟩⟩

theorem ccmOpen_pass (hf : s.fault = false) :
    ChecksPass .ccmOpen s ↔ CcmReady s (openLen s) ∧ OpenWindows s := by
  rw [ChecksPass, checksOf, List.forall_mem_cons, List.forall_mem_cons, List.forall_mem_cons, List.forall_mem_cons,
    openChecks_pass, ccmSeq_fails, nonceCheck_fails, shortInputCheck_fails, limitCheck_fails, le_ccmMax_iff,
    List.forall_mem_singleton, openWindows_iff]
  exact ⟨fun ⟨hu, hnonce, htag, ⟨hmax, hmax32⟩, hwin, haad, hiv⟩ =>
      ⟨⟨⟨hf, hu⟩, hnonce, hmax, hmax32, hiv, haad⟩, htag, hwin⟩,
    fun ⟨⟨⟨_, hu⟩, hnonce, hmax, hmax32, hiv, haad⟩, htag, hwin⟩ =>
      ⟨hu, hnonce, htag, ⟨hmax, hmax32⟩, hwin, haad, hiv⟩⟩

theorem gxmSeal_pass (hf : s.fault = false) : ChecksPass .gxmSeal s ↔ GxmReady s ∧ SealWindows s := by
  rw [ChecksPass, checksOf, List.forall_mem_cons, sealChecks_pass, tableSeq_fails]
  exact ⟨fun ⟨⟨hu, htbl⟩, hwin, haad, _⟩ => ⟨⟨hf, hu, htbl, haad⟩, hwin⟩,
    fun ⟨⟨_, hu, htbl, haad⟩, hwin⟩ => ⟨⟨hu, htbl⟩, hwin, haad, nofun⟩⟩

theorem gxmOpen_pass (hf : s.fault = false) : ChecksPass .gxmOpen s ↔ GxmReady s ∧ OpenWindows s := by
  rw [ChecksPass, checksOf, List.forall_mem_cons, List.forall_mem_cons, openChecks_pass, tableSeq_fails,
    shortInputCheck_fails, openWindows_iff]
  exact ⟨fun ⟨⟨hu, htbl⟩, htag, hwin, haad, _⟩ => ⟨⟨hf, hu, htbl, haad⟩, htag, hwin⟩,
    fun ⟨⟨_, hu, htbl, haad⟩, htag, hwin⟩ => ⟨⟨hu, htbl⟩, htag, hwin, haad, nofun⟩⟩

theorem murSeal_pass (hf : s.fault = false) : ChecksPass .murSeal s ↔ MurReady s ∧ SealWindows s := by
  rw [ChecksPass, checksOf, List.forall_mem_cons, List.forall_mem_cons, sealChecks_pass, tableSeq_fails,
    limitCheck_fails, murRegions_inMemory]
  exact ⟨fun ⟨⟨hu, htbl⟩, hlen, hwin, haad, hiv, hkeys⟩ => ⟨⟨hf, hu, htbl, hlen, ⟨hiv, haad⟩, hkeys⟩, hwin⟩,
    fun ⟨⟨_, hu, htbl, hlen, ⟨hiv, haad⟩, hkeys⟩, hwin⟩ => ⟨⟨hu, htbl⟩, hlen, hwin, haad, hiv, hkeys⟩⟩

theorem murOpen_pass (hf : s.fault = false) : ChecksPass .murOpen s ↔ MurReady s ∧ OpenWindows s := by
  rw [ChecksPass, checksOf, List.forall_mem_cons, List.forall_mem_cons, List.forall_mem_cons, openChecks_pass,
    tableSeq_fails, limitCheck_fails, shortInputCheck_fails, murRegions_inMemory, openWindows_iff]
  exact ⟨fun ⟨⟨hu, htbl⟩, hlen, htag, hwin, haad, hiv, hkeys⟩ =>
      ⟨⟨hf, hu, htbl, hlen, ⟨hiv, haad⟩, hkeys⟩, htag, hwin⟩,
    fun ⟨⟨_, hu, htbl, hlen, ⟨hiv, haad⟩, hkeys⟩, htag, hwin⟩ => ⟨⟨hu, htbl⟩, hlen, htag, hwin, haad, hiv, hkeys⟩⟩

/-! ## A body and a tag after it in memory -/

variable {m m' : Memory} {a : Nat} {body tag : Bytes}

theorem readBytes_body_of_written (h : Written m m' a (body ++ tag)) : m'.readBytes a body.length = body := by
  have hread := readBytes_part_of_written (k := 0) (n := body.length) h (by simp)
  rwa [List.drop_zero, List.take_left' rfl] at hread

theorem readBytes_tag_of_written (h : Written m m' a (body ++ tag)) :
    m'.readBytes (a + body.length) tag.length = tag := by
  have hread := readBytes_part_of_written (k := body.length) (n := tag.length) h (by simp)
  rwa [List.drop_left' rfl, List.take_length] at hread

end Sys2Proof.Machine
end

section
/-! SUPPORT. GCM.SEAL and GCM.OPEN complete (42_gcm.md R123 to R126, R129 to R132). -/

namespace Sys2Proof.Machine

variable {s : State}

/-! ## What GCM computes -/

/-- J0 by the nonce's register, not by its bytes (R123). -/
theorem gcmCommandJ0_eq (s : State) :
    gcmCommandJ0 s = if s.ivLen.toNat = 12 then blockOf (ivBytes s ++ [0x00, 0x00, 0x00, 0x01])
      else ghash s.tbl [] (ivBytes s) := by
  have hlen : (s.fetchAll .iv).length = s.ivLen.toNat := fetch_length ..
  rw [gcmCommandJ0, gcmJ0, hlen]
  rfl

/-- Byte k of src as counter mode from J0 + 1 enciphers or deciphers it: block k / 16 uses the counter block with
k / 16 + 1 added in its last four bytes (R124, R125). -/
theorem gctr_inc32_getD (f : Block → Block) (j0 : Block) {n k : Nat} (hk : k < n) :
    (gctr f (inc32 j0) (srcBytes s n)).getD k 0 = srcByte s k
      ^^^ blockByte (f (j0.extractLsb' 32 96 ++ (j0.extractLsb' 0 32 + BitVec.ofNat 32 (k / 16 + 1)))) (k % 16) := by
  rw [List.getD, gctr_getElem?, getElem?_readBytes, if_pos hk, ← Function.iterate_succ_apply, inc32_iterate]
  rfl

@[simp] theorem gcmSealBody_length (s : State) : (gcmSealBody s).length = s.srcLen.toNat := by
  rw [gcmSealBody, gctr_length, State.fetchAll, fetch_length, State.len]

/-- The tag GCM computes over a ciphertext, from the command's operands (R126). -/
def gcmCommandTag (s : State) (ct : Bytes) : Bytes := gcmTag s.ks0 s.tbl s.tagLen (gcmCommandJ0 s) (aadBytes s) ct

theorem gcmCommandTag_length (ht : s.tagLenL.toNat ≤ 16) (ct : Bytes) :
    (gcmCommandTag s ct).length = s.tagLenL.toNat :=
  gcmTag_length s.ks0 s.tbl (gcmCommandJ0 s) (aadBytes s) ct ht

/-! ## How the commands end -/

theorem gcmSeal_ends (hready : GcmReady s s.srcLen.toNat) (hwin : SealWindows s) :
    exec .gcmSeal s = .next (s.deliver (gcmSealBody s ++ gcmCommandTag s (gcmSealBody s))) := by
  have hf : s.fault = false := hready.1.1
  rw [exec_of_pass hf ((gcmSeal_pass hf).mpr ⟨hready, hwin⟩)]
  rfl

theorem gcmOpenEffect_verified (htag : gcmCommandTag s s.sealedBody = s.sealedTag) :
    gcmOpenEffect s = s.deliver (gctr (encryptBlock s.ks0) (inc32 (gcmCommandJ0 s)) s.sealedBody) :=
  if_pos htag

theorem gcmOpenEffect_rejected (htag : gcmCommandTag s s.sealedBody ≠ s.sealedTag) :
    gcmOpenEffect s = s.authFailure s.bodyLen :=
  if_neg htag

theorem gcmOpen_ends (hready : GcmReady s (openLen s)) (hwin : OpenWindows s) :
    exec .gcmOpen s = .next (gcmOpenEffect s) := by
  have hf : s.fault = false := hready.1.1
  exact exec_of_pass hf ((gcmOpen_pass hf).mpr ⟨hready, hwin⟩)

/-! ## The statement -/

/-- Settles O51: SEAL delivers the counter-mode body and the tag over it; OPEN delivers the body or the zeros as its tag
comparison says. -/
theorem gcmCommandsComplete : Obligations.GcmCommandsComplete := by
  intro s hwf n t J0 counter keyByte tagOf
  have hJ0 : gcmCommandJ0 s = J0 := gcmCommandJ0_eq s
  have htagOf : gcmCommandTag s = tagOf := by
    funext ct
    rw [gcmCommandTag, hJ0]
    rfl
  refine ⟨fun ht hready hwin => ?sealed, fun hready hwin => ⟨fun htag => ?verified, fun htag => ?rejected⟩⟩
  case sealed =>
    have hbody : (gcmSealBody s).length = n := gcmSealBody_length s
    have htag : (tagOf (gcmSealBody s)).length = t := htagOf ▸ gcmCommandTag_length ht (gcmSealBody s)
    have hwritten := written_writeBytes hwf s.dstAddr.toNat (gcmSealBody s ++ tagOf (gcmSealBody s))
    have houtside := hwritten.1
    have hreadBody := readBytes_body_of_written hwritten
    have hreadTag := readBytes_tag_of_written hwritten
    rw [List.length_append, hbody, htag] at houtside
    rw [hbody] at hreadBody
    rw [hbody, htag] at hreadTag
    refine ⟨_, gcmSeal_ends hready hwin, ?_⟩
    rw [htagOf, deliver_eq, List.length_append, hbody, htag]
    refine ⟨rfl, houtside, fun k hk => ?_, hreadTag.trans (congrArg tagOf hreadBody.symm)⟩
    rw [← getD_readBytes _ _ hk, hreadBody, gcmSealBody, hJ0]
    exact gctr_inc32_getD _ _ hk
  case verified =>
    obtain ⟨houtside, hbytes⟩ := written_writeBytes hwf s.dstAddr.toNat
      (gctr (encryptBlock s.ks0) (inc32 J0) (srcBytes s (openLen s)))
    rw [gctr_length, length_readBytes] at houtside hbytes
    rw [← htagOf] at htag
    refine ⟨_, (gcmOpen_ends hready hwin).trans (congrArg _ (gcmOpenEffect_verified htag)), ?_⟩
    rw [hJ0, deliver_eq, gctr_length]
    refine ⟨by rw [State.sealedBody, fetch_length]; rfl, houtside, fun k hk => ?_⟩
    exact (hbytes k hk).trans (gctr_inc32_getD _ _ hk)
  case rejected =>
    rw [← htagOf] at htag
    refine ⟨_, (gcmOpen_ends hready hwin).trans (congrArg _ (gcmOpenEffect_rejected htag)), ?_,
      written_writeBytes hwf s.dstAddr.toNat (zeros (openLen s))⟩
    rw [authFailure_eq, Bool.or_false]

end Sys2Proof.Machine
end

section
/-! SUPPORT. OPEN of what SEAL produced verifies and gives the plaintext (42_gcm.md R130; 45_ccm_gxm_mur.md R226). -/

namespace Sys2Proof.Machine

/-! ## A state at which the sealed bytes are opened -/

/-- v is a state at which the unit u opens what s sealed: the same parameters, sizes and stream position, the same
operands with their windows in place, and a src one tag longer. -/
structure Reopens (u : ModeUnit) (s v : State) : Prop where
  params : v.params = s.params
  fault : v.fault = false
  active : v.active = some u
  ks0 : v.ks0 = s.ks0
  tbl : v.tbl = s.tbl
  tblV : v.tblV = s.tblV
  tagLenL : v.tagLenL = s.tagLenL
  nonceLenL : v.nonceLenL = s.nonceLenL
  spos : v.spos = s.spos
  aad : v.fetchAll .aad = s.fetchAll .aad
  aadIn : InMemory v v.aadAddr.toNat v.aadLen.toNat
  /-- GXM reads no iv operand -/
  iv : u ≠ .gxm → v.ivLen = s.ivLen ∧ v.fetchAll .iv = s.fetchAll .iv ∧ InMemory v v.ivAddr.toNat v.ivLen.toNat
  /-- MUR alone reads the key and aux operands -/
  keys : u = .mur → v.fetchAll .key = s.fetchAll .key ∧ v.fetchAll .aux = s.fetchAll .aux
    ∧ InMemory v v.keyAddr.toNat v.keyLen.toNat ∧ InMemory v v.auxAddr.toNat v.auxLen.toNat
  srcLen : v.srcLen.toNat = s.srcLen.toNat + s.tagLenL.toNat
  windows : OpenWindows v

variable {u : ModeUnit} {s v : State} {ct tag : Bytes}

theorem Reopens.tagLen (h : Reopens u s v) : v.tagLen = s.tagLen := congrArg BitVec.toNat h.tagLenL

theorem Reopens.bodyLen (h : Reopens u s v) : v.bodyLen = s.srcLen.toNat := by
  have hsrc := h.srcLen
  rw [State.bodyLen, h.tagLen, State.len, hsrc, State.tagLen, Nat.add_sub_cancel]

theorem Reopens.fetchIv (h : Reopens u s v) (hu : u ≠ .gxm) : v.fetchAll .iv = s.fetchAll .iv :=
  have ⟨_, hiv, _⟩ := h.iv hu
  hiv

theorem Reopens.openLen (h : Reopens u s v) : openLen v = s.srcLen.toNat := h.bodyLen

/-! ## The checks of OPEN pass -/

theorem gcmOpen_pass_of_seal (h : Reopens .gcm s v) (hready : GcmReady s s.srcLen.toNat) : ChecksPass .gcmOpen v := by
  obtain ⟨⟨_, _, hks⟩, htbl, hnonce, hmax, _⟩ := hready
  obtain ⟨hivLen, _, hiv⟩ := h.iv nofun
  exact (gcmOpen_pass h.fault).mpr ⟨⟨⟨h.fault, h.active, h.ks0 ▸ hks⟩, h.tblV ▸ htbl,
    by rw [hivLen, hnonce, h.nonceLenL], h.openLen ▸ hmax, hiv, h.aadIn⟩, h.windows⟩

theorem ccmOpen_pass_of_seal (h : Reopens .ccm s v) (hready : CcmReady s s.srcLen.toNat) : ChecksPass .ccmOpen v := by
  obtain ⟨⟨_, _, hks⟩, hnonce, hmax, hmax32, _⟩ := hready
  obtain ⟨hivLen, _, hiv⟩ := h.iv nofun
  exact (ccmOpen_pass h.fault).mpr ⟨⟨⟨h.fault, h.active, h.ks0 ▸ hks⟩, by rw [hivLen, hnonce, h.nonceLenL],
    by rwa [h.openLen, h.nonceLenL], h.openLen ▸ hmax32, hiv, h.aadIn⟩, h.windows⟩

theorem gxmOpen_pass_of_seal (h : Reopens .gxm s v) (hready : GxmReady s) : ChecksPass .gxmOpen v := by
  obtain ⟨_, _, htbl, _⟩ := hready
  exact (gxmOpen_pass h.fault).mpr ⟨⟨h.fault, h.active, h.tblV ▸ htbl, h.aadIn⟩, h.windows⟩

theorem murOpen_pass_of_seal (h : Reopens .mur s v) (hready : MurReady s) : ChecksPass .murOpen v := by
  obtain ⟨_, _, htbl, hlen, _⟩ := hready
  obtain ⟨hivLen, _, hiv⟩ := h.iv nofun
  obtain ⟨_, _, hkey, haux⟩ := h.keys rfl
  exact (murOpen_pass h.fault).mpr
    ⟨⟨h.fault, h.active, h.tblV ▸ htbl, hivLen ▸ hlen, ⟨hiv, h.aadIn⟩, hkey, haux⟩, h.windows⟩

/-! ## What SEAL delivers and OPEN gives back -/

/-- The sealed bytes of s are ct and then tag, and whenever src of v holds those, OPEN at v passes its checks and
delivers the plaintext, from a state with its running context moved on. -/
structure OpensTo (e d : Instr) (s v : State) (ct tag : Bytes) : Prop where
  sealed : (effectOf e s).mem = s.mem.writeBytes s.dstAddr.toNat (ct ++ tag)
  body_length : ct.length = s.srcLen.toNat
  tag_length : tag.length = s.tagLenL.toNat
  pass : ChecksPass d v
  opened : v.sealedBody = ct → v.sealedTag = tag → ∃ b, Running d v b ∧ effectOf d v = b.deliver (s.fetchAll .src)

theorem gcm_opensTo (h : Reopens .gcm s v) (ht : s.tagLenL.toNat ≤ 16) (hc : ChecksPass .gcmSeal s)
    (hf : s.fault = false) :
    OpensTo .gcmSeal .gcmOpen s v (gcmSealBody s) (gcmCommandTag s (gcmSealBody s)) where
  sealed := rfl
  body_length := gcmSealBody_length s
  tag_length := gcmCommandTag_length ht _
  pass := gcmOpen_pass_of_seal h ((gcmSeal_pass hf).mp hc).1
  opened hbody htag := by
    have hJ0 : gcmCommandJ0 v = gcmCommandJ0 s := by
      rw [gcmCommandJ0, gcmCommandJ0, h.tbl, h.fetchIv nofun]
    have hsame : gcmCommandTag v v.sealedBody = v.sealedTag := by
      rw [hbody, htag, gcmCommandTag, gcmCommandTag, h.ks0, h.tbl, h.tagLen, hJ0]
      exact congrArg (gcmTag _ _ _ _ · _) h.aad
    refine ⟨v, .refl _ v, (gcmOpenEffect_verified hsame).trans ?_⟩
    rw [hbody, hJ0, h.ks0, gcmSealBody, gctr_gctr]

theorem ccm_opensTo (h : Reopens .ccm s v) (ht : s.tagLenL.toNat ≤ 16) (hc : ChecksPass .ccmSeal s)
    (hf : s.fault = false) :
    OpensTo .ccmSeal .ccmOpen s v (ccmCtr (encryptBlock s.ks0) (s.fetchAll .iv) (s.fetchAll .src))
      (ccmTag (encryptBlock s.ks0) s.tagLen (s.fetchAll .iv) (s.fetchAll .aad) (s.fetchAll .src)) where
  sealed := rfl
  body_length := (indexedCtr_length ..).trans (fetch_length ..)
  tag_length := ccmTag_length _ _ _ _ ht
  pass := ccmOpen_pass_of_seal h ((ccmSeal_pass hf).mp hc).1
  opened hbody htag := by
    have hpt : ccmOpenBody v = s.fetchAll .src := by
      rw [ccmOpenBody, hbody, h.ks0, h.fetchIv nofun, ccmCtr, ccmCtr, indexedCtr_indexedCtr]
    refine ⟨v, .refl _ v, ?_⟩
    rw [effectOf, ccmOpenEffect, hpt, htag, h.ks0, h.tagLen, h.fetchIv nofun, h.aad, if_pos rfl]

theorem gxm_opensTo (h : Reopens .gxm s v) (ht : s.tagLenL.toNat ≤ 16) (hc : ChecksPass .gxmSeal s)
    (hf : s.fault = false) :
    OpensTo .gxmSeal .gxmOpen s v (gxmSealBody s)
      (gxmTag s.tbl s.tagLen (s.fetchAll .aad) (gxmSealBody s) (takenBytes s s.tagLen)) where
  sealed := rfl
  body_length := by
    rw [gxmSealBody, xorBytes_length, takenBytes, keystream_length, State.fetchAll, fetch_length, Nat.min_self]
    rfl
  tag_length := gxmTag_length _ _ _ _ ht (keystream_length ..)
  pass := gxmOpen_pass_of_seal h ((gxmSeal_pass hf).mp hc).1
  opened hbody htag := by
    have htaken (k : Nat) : takenBytes v k = takenBytes s k := by rw [takenBytes, takenBytes, h.spos]
    have htakenAfter (j k : Nat) : takenBytes (v.afterTake j) k = takenBytes (s.afterTake j) k := by
      rw [takenBytes, takenBytes, afterTake_spos, afterTake_spos, h.spos]
    have hpt : xorBytes v.sealedBody (takenBytes (v.afterTake v.tagLen) v.bodyLen) = s.fetchAll .src := by
      rw [hbody, htakenAfter, h.tagLen, h.bodyLen, gxmSealBody]
      exact xorBytes_xorBytes (by simp [takenBytes, State.fetchAll, State.len])
    refine ⟨(v.afterTake v.tagLen).afterTake v.bodyLen, ((Running.refl _ v).afterTake rfl _).afterTake rfl _, ?_⟩
    rw [effectOf, gxmOpenEffect, hpt, hbody, htag, htaken, h.tbl, h.tagLen, h.aad, if_pos rfl]

/-- The data stream XORed again gives the data back: its IV is made of the tag, which both ways know (R223). -/
theorem murXor_murXor {new : Bytes → Bytes → Option (Nat → Byte)} {k1 iv tag data out : Bytes}
    (h : murXor new k1 iv tag data = some out) : murXor new k1 iv tag out = some data := by
  have hlen := murXor_length h
  rw [murXor, firstOf] at h ⊢
  cases hnew : new k1 (murDataIv iv tag) with
  | none => rw [hnew] at h; cases h
  | some ks =>
    rw [hnew] at h
    obtain rfl : xorBytes data (keystream ks 0 data.length) = out := Option.some.inj h
    rw [hlen]
    exact congrArg some (xorBytes_xorBytes (keystream_length ..).ge)

/-- MUR.SEAL without E_STREAM has made both streams (R224). -/
theorem murSealEffect_of_no_error (h : (murSealEffect s).err = none) :
    ∃ tag ct, murCommandTag s (s.fetchAll .src) = some tag
      ∧ murXor Config.streamNew (s.fetchAll .key) (s.fetchAll .iv) tag (s.fetchAll .src) = some ct
      ∧ murSealEffect s = s.deliver (ct ++ tag) := by
  unfold murSealEffect at h ⊢
  cases htag : murCommandTag s (s.fetchAll .src) with
  | none => rw [htag] at h; cases h
  | some tag =>
    cases hct : murXor Config.streamNew (s.fetchAll .key) (s.fetchAll .iv) tag (s.fetchAll .src) with
    | none => rw [htag] at h; simp only [hct] at h; cases h
    | some ct => exact ⟨tag, ct, rfl, hct, by simp only [hct]⟩

theorem mur_opensTo (h : Reopens .mur s v) (hc : ChecksPass .murSeal s) (hf : s.fault = false)
    (herr : (murSealEffect s).err = none) : ∃ ct tag, OpensTo .murSeal .murOpen s v ct tag := by
  obtain ⟨tag, ct, htag, hct, hseal⟩ := murSealEffect_of_no_error herr
  obtain ⟨_, hiv, _⟩ := h.iv nofun
  obtain ⟨hkey, haux, _⟩ := h.keys rfl
  refine ⟨ct, tag, congrArg State.mem hseal, (murXor_length hct).trans (fetch_length ..), murCommandTag_length htag,
    murOpen_pass_of_seal h ((murSeal_pass hf).mp hc).1, fun hbody hsealedTag => ⟨v, .refl _ v, ?_⟩⟩
  have hpt : murXor Config.streamNew (v.fetchAll .key) (v.fetchAll .iv) v.sealedTag v.sealedBody
      = some (s.fetchAll .src) := by
    rw [hkey, hiv, hbody, hsealedTag]
    exact murXor_murXor hct
  have hsame : murCommandTag v (s.fetchAll .src) = some tag := by
    rw [← htag, murCommandTag, murCommandTag, h.params, h.tbl, h.tagLen, hiv, haux, h.aad]
  rw [effectOf, murOpenEffect, hpt]
  simp only [hsame, hsealedTag, if_true]

/-- What `OpensTo` gives for each pair of commands whose SEAL ended without error. -/
theorem exists_opensTo {e d : Instr}
    (hi : (e, d, u) ∈ [(Instr.gcmSeal, Instr.gcmOpen, ModeUnit.gcm), (.ccmSeal, .ccmOpen, .ccm),
      (.gxmSeal, .gxmOpen, .gxm), (.murSeal, .murOpen, .mur)])
    (h : Reopens u s v) (ht : s.tagLenL.toNat ≤ 16) (hf : s.fault = false) (hc : ChecksPass e s)
    (herr : (effectOf e s).err = none) : ∃ ct tag, OpensTo e d s v ct tag := by
  simp only [List.mem_cons, Prod.mk.injEq, List.not_mem_nil, or_false] at hi
  rcases hi with ⟨rfl, rfl, rfl⟩ | ⟨rfl, rfl, rfl⟩ | ⟨rfl, rfl, rfl⟩ | ⟨rfl, rfl, rfl⟩
  · exact ⟨_, _, gcm_opensTo h ht hc hf⟩
  · exact ⟨_, _, ccm_opensTo h ht hc hf⟩
  · exact ⟨_, _, gxm_opensTo h ht hc hf⟩
  · exact mur_opensTo h hc hf herr

/-! ## The statement -/

/-- Where src of v holds the sealed bytes, they are the body and the tag of an OPEN at v (42_gcm.md R130). -/
theorem OpensTo.parts {e d : Instr} (ho : OpensTo e d s v ct tag) (h : Reopens u s v) (hwf : s.mem.wf)
    (hsrc : srcBytes v v.srcLen.toNat = (effectOf e s).mem.readBytes s.dstAddr.toNat v.srcLen.toNat) :
    v.sealedBody = ct ∧ v.sealedTag = tag := by
  have hlen : v.srcLen.toNat = (ct ++ tag).length := by
    rw [h.srcLen, List.length_append, ho.body_length, ho.tag_length]
  have hsplit : srcBytes v v.srcLen.toNat = v.sealedBody ++ v.sealedTag := by
    rw [h.srcLen, srcBytes, readBytes_append, State.sealedBody, State.sealedTag, h.bodyLen, h.tagLen]
    rfl
  rw [hsplit, ho.sealed, hlen, readBytes_writeBytes hwf] at hsrc
  exact List.append_inj hsrc (by rw [State.sealedBody, fetch_length, h.bodyLen, ho.body_length])

/-- Settles O59: SEAL had its effect, src of v holds its body and tag, and OPEN delivers the plaintext (`OpensTo`). -/
theorem openUndoesSeal : Obligations.OpenUndoesSeal := by
  intro e d u s t v hi hwf hwfv hf hactive ht hexec herr hparams hfault hact hks htbl htblV htagLen hnonceLen hspos _
    haad haadIn hiv hkeys hlen hsrc hwin
  have h : Reopens u s v :=
    ⟨hparams, hfault, hact.trans hactive, hks, htbl, htblV, htagLen, hnonceLen, hspos, haad, haadIn, hiv, hkeys, hlen,
      hwin⟩
  obtain ⟨hc, rfl⟩ : ChecksPass e s ∧ t = effectOf e s := by
    rcases exec_cases hexec with ⟨hfaulted, _⟩ | ⟨_, c, _, _, rfl⟩ | ⟨_, hc, ht⟩
    · rw [hf] at hfaulted; cases hfaulted
    · cases herr
    · exact ⟨hc, ht⟩
  obtain ⟨ct, tag, ho⟩ := exists_opensTo hi h ht hf hc herr
  obtain ⟨hbody, htag⟩ := ho.parts h hwf hsrc
  obtain ⟨b, hb, heffect⟩ := ho.opened hbody htag
  have hread := readBytes_writeBytes hwfv v.dstAddr.toNat (s.fetchAll .src)
  have hsrcLen : (s.fetchAll .src).length = s.srcLen.toNat := fetch_length ..
  rw [hsrcLen] at hread
  refine ⟨_, (exec_of_pass hfault ho.pass).trans (congrArg _ heffect), rfl, ?_, ?_⟩
  · rw [deliver_outLen, hsrcLen, BitVec.ofNat_toNat, BitVec.setWidth_eq]
  · rw [deliver_mem, hb.others]
    exact hread

end Sys2Proof.Machine
end

section
/-! SUPPORT. The INIT and SETIV commands of the confidentiality modes complete (43_block_stream_modes.md R141, R144). -/

namespace Sys2Proof.Machine

variable {i : Instr} {u : ModeUnit} {s : State}

/-- The checks of an IV operand pass exactly where the command may run and 16 bytes of IV are in the memory (R141,
R144). -/
theorem ivChecks_pass {ok : Bool} :
    (∀ c ∈ ivChecks ok s, c.fails = false) ↔ ok = true ∧ s.ivLen.toNat = 16 ∧ InMemory s s.ivAddr.toNat 16 := by
  rw [ivChecks, List.forall_mem_cons, List.forall_mem_cons, List.forall_mem_singleton, seqCheck_fails,
    failIf_decide_fails, not_not, busCheck_fails, List.forall_mem_singleton]
  rfl

/-- A command that is `InitIV(u)` binds u and loads IV (R141). -/
theorem initIv_completes (hchecks : checksOf i s = ivChecks s.ks0.valid s) (heffect : effectOf i s = initIvEffect u s)
    (hf : s.fault = false) (hks : s.ks0.valid = true) (hlen : s.ivLen.toNat = 16)
    (hiv : InMemory s s.ivAddr.toNat 16) :
    exec i s = .next
      { s with
        active := some u, iv := s.mem.block s.ivAddr.toNat
        ksb := 0, kpos := 16, tagLenL := 0, nonceLenL := 0, dialL := 0, spos := 0
        err := none, outLen := 0 } := by
  have hpass : ChecksPass i s := by
    rw [ChecksPass, hchecks]; exact ivChecks_pass.mpr ⟨hks, hlen, hiv⟩
  rw [exec_of_pass hf hpass, heffect]
  rfl

/-- Settles O35: ECB.INIT has one check, and the other six are `InitIV` of their unit (`initIv_completes`). -/
theorem modeInitsComplete : Obligations.ModeInitsComplete := by
  intro s hf hks
  refine ⟨?ecb, fun hlen hiv => ?ivs⟩
  case ecb =>
    have hpass : ChecksPass .ecbInit s := List.forall_mem_singleton.mpr (seqCheck_fails.mpr hks)
    rw [exec_of_pass hf hpass]
    rfl
  case ivs =>
    simp only [List.forall_mem_cons]
    exact ⟨initIv_completes rfl rfl hf hks hlen hiv, initIv_completes rfl rfl hf hks hlen hiv,
      initIv_completes rfl rfl hf hks hlen hiv, initIv_completes rfl rfl hf hks hlen hiv,
      initIv_completes rfl rfl hf hks hlen hiv, initIv_completes rfl rfl hf hks hlen hiv, nofun⟩

/-- A command that is `SetIV(u)` replaces IV (R144). -/
theorem setIv_completes (hchecks : checksOf i s = ivChecks (s.bound u) s) (heffect : effectOf i s = setIvEffect s)
    (hf : s.fault = false) (hlen : s.ivLen.toNat = 16) (hiv : InMemory s s.ivAddr.toNat 16)
    (hu : s.active = some u) :
    exec i s = .next { s with iv := s.mem.block s.ivAddr.toNat, err := none, outLen := 0 } := by
  have hpass : ChecksPass i s := by
    rw [ChecksPass, hchecks]; exact ivChecks_pass.mpr ⟨(bound_iff s u).mpr hu, hlen, hiv⟩
  rw [exec_of_pass hf hpass, heffect]
  rfl

/-- Settles O36: the three commands are `SetIV` of their unit (`setIv_completes`). -/
theorem setIvsComplete : Obligations.SetIvsComplete := by
  intro s hf hlen hiv
  simp only [List.forall_mem_cons]
  exact ⟨setIv_completes rfl rfl hf hlen hiv, setIv_completes rfl rfl hf hlen hiv,
    setIv_completes rfl rfl hf hlen hiv, nofun⟩

end Sys2Proof.Machine
end

section
/-! SUPPORT. The block mode commands complete (43_block_stream_modes.md R142, R146 to R172): a running value goes from
block to block. -/

namespace Sys2Proof.Machine

variable {i : Instr} {u : ModeUnit} {s t : State}

/-- A run over src that passes its checks changes the running context, the result at dst, ERR and OUT_LEN only. -/
theorem RunsOver.completes {g : Nat} {run : KeySchedule → StreamCtx → Bytes → StreamCtx × Bytes}
    (h : RunsOver i u g run) (hwf : s.mem.wf) (hr : StreamReady u s) (hn : g ∣ s.srcLen.toNat) :
    ∃ t, exec i s = .next t
      ∧ t = { s with mem := t.mem, iv := t.iv, ksb := t.ksb, kpos := t.kpos, err := none, outLen := s.srcLen }
      ∧ t.streamCtx = (run s.ks0 s.streamCtx (s.fetchAll .src)).1
      ∧ (run s.ks0 s.streamCtx (s.fetchAll .src)).2.length = s.srcLen.toNat
      ∧ Written s.mem t.mem s.dstAddr.toNat (run s.ks0 s.streamCtx (s.fetchAll .src)).2 := by
  have hsrc : (s.fetchAll .src).length = s.srcLen.toNat := fetch_length ..
  have hlength := (h.length_eq s.ks0 s.streamCtx (s.fetchAll .src) (hsrc ▸ hn)).trans hsrc
  refine ⟨_, h.exec_eq s hr hn, ?_, runEffect_streamCtx .., hlength, written_writeBytes hwf ..⟩
  rw [runEffect, deliver_eq, hlength, BitVec.ofNat_toNat, BitVec.setWidth_eq]
  rfl

/-! ## The running value of a block command -/

/-- t is where a `crypt_blocks` command over src leaves s, the running value being F j before block j (R142). -/
structure BlocksDone (step : Block → Block → Block × Block) (s t : State) (F : Nat → Block) : Prop where
  frame : t = { s with mem := t.mem, iv := t.iv, err := none, outLen := s.srcLen }
  outside : SameOutside s.mem t.mem s.dstAddr.toNat s.srcLen.toNat
  first : F 0 = s.iv
  last : t.iv = F (s.srcLen.toNat / 16)
  block : ∀ j < s.srcLen.toNat / 16, step (F j) (srcBlock s j) = (F (j + 1), dstBlock s t j)

/-- The blocks of src. -/
def srcBlocks (s : State) : List Block := blocksOf (s.fetchAll .src)

theorem srcBlocks_getElem? {j : Nat} (hj : j < s.srcLen.toNat / 16) : (srcBlocks s)[j]? = some (srcBlock s j) :=
  blocksOf_readBytes _ _ hj

theorem srcBlocks_length (hn : s.srcLen.toNat % 16 = 0) : (srcBlocks s).length = s.srcLen.toNat / 16 := by
  rw [srcBlocks, blocksOf_length, State.fetchAll, fetch_length, State.len]
  omega

/-- A block command completes, its running value being the one of `chain`. -/
theorem blockCommand_completes {step : KeySchedule → Block → Block → Block × Block}
    (h : ∀ s, exec i s = blockCommand u (step s.ks0) s) (hwf : s.mem.wf) (hr : BlockReady u s) :
    ∃ t F, exec i s = .next t ∧ BlocksDone (step s.ks0) s t F := by
  obtain ⟨hready, hn, hwin⟩ := hr
  obtain ⟨t, hexec, hframe, hctx, hlength, hwritten⟩ :=
    (runsOver_of_blockCommand h).completes hwf ⟨hready, hwin⟩ (Nat.dvd_of_mod_eq_zero hn)
  refine ⟨t, runningValue (step s.ks0) s.iv (srcBlocks s), hexec, ?frame, hlength ▸ hwritten.1, rfl, ?last,
    fun j hj => ?block⟩
  case frame =>
    have hksb : t.ksb = s.ksb := congrArg StreamCtx.ksb hctx
    have hkpos : t.kpos = s.kpos := congrArg StreamCtx.kpos hctx
    rwa [hksb, hkpos] at hframe
  case last =>
    rw [← srcBlocks_length hn, ← chain_fst]
    exact congrArg StreamCtx.iv hctx
  case block =>
    have hsrc := srcBlocks_getElem? hj
    have hout : (blocksOf (bytesOfBlocks (chain (step s.ks0) s.iv (srcBlocks s)).2))[j]?
        = some (step s.ks0 (runningValue (step s.ks0) s.iv (srcBlocks s) j) (srcBlock s j)).2 := by
      rw [blocksOf_bytesOfBlocks, chain_getElem?, hsrc]; rfl
    rw [runningValue_succ _ _ _ hsrc, dstBlock, block_of_written hwritten hout (by omega)]

/-! ## ECB (R146, R147) -/

/-- A block on its own, as a step that leaves the running value. -/
def ecbStep (cipher : Block → Block) (v b : Block) : Block × Block := (v, cipher b)

theorem chain_ecbStep (cipher : Block → Block) (v : Block) (bs : List Block) :
    chain (ecbStep cipher) v bs = (v, bs.map cipher) := by
  induction bs with
  | nil => rfl
  | cons b bs ih => rw [chain_cons, ecbStep, ih, List.map_cons]

/-- An ECB command is a block command that leaves the running value. -/
theorem ecbCommand_eq (cipher : Block → Block) (s : State) :
    ecbCommand cipher s = blockCommand .ecb (ecbStep cipher) s := by
  rw [ecbCommand, blockCommand, chain_ecbStep]

theorem BlocksDone.ecb {cipher : Block → Block} {F : Nat → Block} (h : BlocksDone (ecbStep cipher) s t F) :
    t.iv = s.iv ∧ ∀ j < s.srcLen.toNat / 16, dstBlock s t j = cipher (srcBlock s j) := by
  have hF : ∀ j ≤ s.srcLen.toNat / 16, F j = s.iv := by
    intro j
    induction j with
    | zero => exact fun _ => h.first
    | succ j ih => exact fun hj => (congrArg Prod.fst (h.block j hj)).symm.trans (ih (Nat.le_of_succ_le hj))
  exact ⟨h.last.trans (hF _ le_rfl), fun j hj => (congrArg Prod.snd (h.block j hj)).symm⟩

/-- An ECB command completes: every block of dst is the cipher of its block of src. -/
theorem ecbCommand_completes {cipher : KeySchedule → Block → Block}
    (h : ∀ s, exec i s = ecbCommand (cipher s.ks0) s) (hwf : s.mem.wf) (hr : BlockReady .ecb s) :
    ∃ t, exec i s = .next t ∧ t = { s with mem := t.mem, err := none, outLen := s.srcLen }
      ∧ SameOutside s.mem t.mem s.dstAddr.toNat s.srcLen.toNat
      ∧ ∀ j < s.srcLen.toNat / 16, dstBlock s t j = cipher s.ks0 (srcBlock s j) := by
  obtain ⟨t, F, hexec, hdone⟩ :=
    blockCommand_completes (step := fun ks => ecbStep (cipher ks)) (fun s => (h s).trans (ecbCommand_eq ..)) hwf hr
  obtain ⟨hiv, hblocks⟩ := hdone.ecb
  have hframe := hdone.frame
  rw [hiv] at hframe
  exact ⟨t, hexec, hframe, hdone.outside, hblocks⟩

/-- Settles O37: both commands apply their cipher to each block (`ecbCommand_completes`). -/
theorem ecbCommandsComplete : Obligations.EcbCommandsComplete := fun _ hwf hr =>
  ⟨ecbCommand_completes (i := .ecbEnc) (cipher := encryptBlock) (fun _ => rfl) hwf hr,
    ecbCommand_completes (i := .ecbDec) (cipher := decryptBlock) (fun _ => rfl) hwf hr⟩

/-! ## CBC (R150, R151) -/

/-- A running value that after every block is a given block of the command: IV before the first one. -/
theorem BlocksDone.running_eq {step : Block → Block → Block × Block} {F c : Nat → Block} (h : BlocksDone step s t F)
    (hc : ∀ j < s.srcLen.toNat / 16, F (j + 1) = c j) {j : Nat} (hj : j ≤ s.srcLen.toNat / 16) :
    F j = if j = 0 then s.iv else c (j - 1) := by
  cases j with
  | zero => rw [h.first, if_pos rfl]
  | succ j => rw [hc j hj, if_neg j.succ_ne_zero, Nat.add_sub_cancel]

/-- IV ends as the last of those blocks, or as it was with none. -/
theorem BlocksDone.last_eq {step : Block → Block → Block × Block} {F c : Nat → Block} (h : BlocksDone step s t F)
    (hc : ∀ j < s.srcLen.toNat / 16, F (j + 1) = c j) (hn : s.srcLen.toNat % 16 = 0) :
    t.iv = if s.srcLen.toNat = 0 then s.iv else c (s.srcLen.toNat / 16 - 1) := by
  have hzero : s.srcLen.toNat / 16 = 0 ↔ s.srcLen.toNat = 0 := by omega
  rw [h.last, h.running_eq hc le_rfl]
  simp only [hzero]

/-- Settles O38: the running value after block j is the ciphertext block j, of dst when enciphering and of src when
deciphering. -/
theorem cbcCommandsComplete : Obligations.CbcCommandsComplete := by
  intro s hwf hr
  have ⟨_, hn, _⟩ := hr
  refine ⟨?enc, ?dec⟩
  case enc =>
    obtain ⟨t, F, hexec, h⟩ := blockCommand_completes (i := .cbcEnc) (step := cbcEncStep) (fun _ => rfl) hwf hr
    have hout : ∀ j < s.srcLen.toNat / 16, encryptBlock s.ks0 (srcBlock s j ^^^ F j) = dstBlock s t j :=
      fun j hj => congrArg Prod.snd (h.block j hj)
    have hF : ∀ j < s.srcLen.toNat / 16, F (j + 1) = dstBlock s t j :=
      fun j hj => (congrArg Prod.fst (h.block j hj)).symm.trans (hout j hj)
    refine ⟨t, hexec, h.frame, h.outside, fun j hj => ?_, h.last_eq hF hn⟩
    rw [← hout j hj, h.running_eq hF hj.le]
  case dec =>
    obtain ⟨t, F, hexec, h⟩ := blockCommand_completes (i := .cbcDec) (step := cbcDecStep) (fun _ => rfl) hwf hr
    have hF : ∀ j < s.srcLen.toNat / 16, F (j + 1) = srcBlock s j :=
      fun j hj => (congrArg Prod.fst (h.block j hj)).symm
    have hout : ∀ j < s.srcLen.toNat / 16, decryptBlock s.ks0 (srcBlock s j) ^^^ F j = dstBlock s t j :=
      fun j hj => congrArg Prod.snd (h.block j hj)
    refine ⟨t, hexec, h.frame, h.outside, fun j hj => ?_, h.last_eq hF hn⟩
    rw [← hout j hj, h.running_eq hF hj.le]

/-! ## BC (R166, R167) -/

/-- Settles O39: F is the running value. -/
theorem bcCommandsComplete : Obligations.BcCommandsComplete := by
  intro s hwf hr
  refine ⟨?enc, ?dec⟩
  case enc =>
    obtain ⟨t, F, hexec, h⟩ := blockCommand_completes (i := .bcEnc) (step := bcEncStep) (fun _ => rfl) hwf hr
    refine ⟨t, hexec, h.frame, h.outside, F, h.first, h.last, fun j hj => ?_⟩
    obtain ⟨hF, hout⟩ := Prod.mk.inj (h.block j hj)
    exact ⟨hout.symm, by rw [← hF, hout]⟩
  case dec =>
    obtain ⟨t, F, hexec, h⟩ := blockCommand_completes (i := .bcDec) (step := bcDecStep) (fun _ => rfl) hwf hr
    refine ⟨t, hexec, h.frame, h.outside, F, h.first, h.last, fun j hj => ?_⟩
    obtain ⟨hF, hout⟩ := Prod.mk.inj (h.block j hj)
    exact ⟨hout.symm, hF.symm⟩

/-! ## OFBNLF (R171, R172) -/

/-- An OFBNLF command completes: block j goes through the cipher of the key `K_(j+1)`, whichever way the cipher. -/
theorem ofbnlf_completes {cipher : KeySchedule → Block → Block}
    (h : ∀ s, exec i s = blockCommand .ofbnlf (ofbnlfStep cipher s.ks0) s) (hwf : s.mem.wf)
    (hr : BlockReady .ofbnlf s) :
    ∃ t, exec i s = .next t ∧ t = { s with mem := t.mem, iv := t.iv, err := none, outLen := s.srcLen }
      ∧ SameOutside s.mem t.mem s.dstAddr.toNat s.srcLen.toNat
      ∧ t.iv = (encryptBlock s.ks0)^[s.srcLen.toNat / 16] s.iv
      ∧ ∀ j < s.srcLen.toNat / 16,
          dstBlock s t j = cipher (keyExp ((encryptBlock s.ks0)^[j + 1] s.iv)) (srcBlock s j) := by
  obtain ⟨t, F, hexec, hdone⟩ := blockCommand_completes h hwf hr
  have hF : ∀ j ≤ s.srcLen.toNat / 16, F j = (encryptBlock s.ks0)^[j] s.iv := by
    intro j
    induction j with
    | zero => exact fun _ => hdone.first
    | succ j ih =>
      intro hj
      rw [Function.iterate_succ_apply', ← ih (Nat.le_of_succ_le hj)]
      exact (congrArg Prod.fst (hdone.block j hj)).symm
  refine ⟨t, hexec, hdone.frame, hdone.outside, hdone.last.trans (hF _ le_rfl), fun j hj => ?_⟩
  rw [Function.iterate_succ_apply', ← hF j hj.le]
  exact (congrArg Prod.snd (hdone.block j hj)).symm

/-- Settles O40: both directions run the same keys (`ofbnlf_completes`). -/
theorem ofbnlfCommandsComplete : Obligations.OfbnlfCommandsComplete := fun _ hwf hr =>
  ⟨ofbnlf_completes (i := .ofbnlfEnc) (cipher := encryptBlock) (fun _ => rfl) hwf hr,
    ofbnlf_completes (i := .ofbnlfDec) (cipher := decryptBlock) (fun _ => rfl) hwf hr⟩

end Sys2Proof.Machine
end

section
/-! SUPPORT. The stream mode commands complete (43_block_stream_modes.md R143, R155 to R163): before byte k the context
is the one of so many new keystream blocks and a place in the last of them. -/

namespace Sys2Proof.Machine

variable {i : Instr} {u : ModeUnit} {s t : State}

/-! ## The running context of a stream command -/

/-- t is where an `xor_keystream` command over src leaves s, the running context being C k before byte k (R143). -/
structure BytesDone (step : StreamCtx → Byte → StreamCtx × Byte) (s t : State) (C : Nat → StreamCtx) : Prop where
  frame : t = { s with mem := t.mem, iv := t.iv, ksb := t.ksb, kpos := t.kpos, err := none, outLen := s.srcLen }
  outside : SameOutside s.mem t.mem s.dstAddr.toNat s.srcLen.toNat
  first : C 0 = s.streamCtx
  last : t.streamCtx = C s.srcLen.toNat
  byte : ∀ k < s.srcLen.toNat, step (C k) (srcByte s k) = (C (k + 1), t.mem.read (s.dstAddr.toNat + k))

/-- A stream command completes, its running context being the one of `streamRun`. -/
theorem streamCommand_completes {step : KeySchedule → StreamCtx → Byte → StreamCtx × Byte}
    (h : ∀ s, exec i s = streamCommand u (step s.ks0) s) (hwf : s.mem.wf) (hr : StreamReady u s) :
    ∃ t C, exec i s = .next t ∧ BytesDone (step s.ks0) s t C := by
  obtain ⟨t, hexec, hframe, hctx, hlength, houtside, hbytes⟩ :=
    (runsOver_of_streamCommand h).completes hwf hr (Nat.one_dvd _)
  refine ⟨t, runningCtx (step s.ks0) s.streamCtx (s.fetchAll .src), hexec, hframe, hlength ▸ houtside, rfl, ?last,
    fun k hk => ?byte⟩
  case last => rw [hctx, streamRun_fst, State.fetchAll, fetch_length]; rfl
  case byte =>
    have hsrc : (s.fetchAll .src)[k]? = some (srcByte s k) := (getElem?_readBytes ..).trans (if_pos hk)
    rw [runningCtx_succ _ _ _ hsrc, hbytes k (hlength ▸ hk), List.getD, streamRun_getElem?, hsrc]
    rfl

/-- A context P that begins as the command's does and that every step on a command's byte takes on is the running
context, and the steps from P give the command's bytes. -/
theorem BytesDone.ctx_eq {step : StreamCtx → Byte → StreamCtx × Byte} {C P : Nat → StreamCtx} {out : Nat → Byte}
    (h : BytesDone step s t C) (h0 : P 0 = s.streamCtx)
    (hstep : ∀ k < s.srcLen.toNat, (step (P k) (srcByte s k)).2 = t.mem.read (s.dstAddr.toNat + k) →
      step (P k) (srcByte s k) = (P (k + 1), out k)) :
    t.streamCtx = P s.srcLen.toNat ∧ ∀ k < s.srcLen.toNat, t.mem.read (s.dstAddr.toNat + k) = out k := by
  have hnext {k : Nat} (hk : k < s.srcLen.toNat) (hC : C k = P k) :
      (P (k + 1), out k) = (C (k + 1), t.mem.read (s.dstAddr.toNat + k)) := by
    have hbyte := h.byte k hk
    rw [hC] at hbyte
    rw [← hstep k hk (congrArg Prod.snd hbyte), hbyte]
  have hC : ∀ k ≤ s.srcLen.toNat, C k = P k := by
    intro k
    induction k with
    | zero => exact fun _ => h.first.trans h0.symm
    | succ k ih => exact fun hk => (congrArg Prod.fst (hnext hk (ih (Nat.le_of_succ_le hk)))).symm
  exact ⟨h.last.trans (hC _ le_rfl), fun k hk => (congrArg Prod.snd (hnext hk (hC k hk.le))).symm⟩

/-! ## Places in the keystream -/

/-- KPOS before byte k, from the position p0: the bytes gone by less 16 for each new block. -/
def kposAt (p0 k : Nat) : Nat := p0 + k - 16 * refills p0 k

theorem refills_zero {p0 : Nat} (hp : p0 ≤ 16) : refills p0 0 = 0 := by unfold refills; omega

theorem kposAt_zero {p0 : Nat} (hp : p0 ≤ 16) : kposAt p0 0 = p0 := by simp [kposAt, refills_zero hp]

/-- Byte k is in block (p0 + k) / 16, which has been made when it is done. -/
theorem refills_succ (p0 k : Nat) : refills p0 (k + 1) = (p0 + k) / 16 := rfl

theorem kposAt_succ (p0 k : Nat) : kposAt p0 (k + 1) = (p0 + k) % 16 + 1 := by
  rw [kposAt, refills_succ]; omega

/-- Before byte k the last block is used up and byte k is the first of the next, or byte k is in the last block. -/
theorem kposAt_cases {p0 : Nat} (hp : p0 ≤ 16) (k : Nat) :
    (kposAt p0 k = 16 ∧ (p0 + k) / 16 = refills p0 k + 1 ∧ (p0 + k) % 16 = 0)
      ∨ (kposAt p0 k < 16 ∧ (p0 + k) / 16 = refills p0 k ∧ (p0 + k) % 16 = kposAt p0 k) := by
  unfold kposAt refills; omega

/-- The context of q new blocks and position pos, refilled before byte k, is the one at byte k's own block and place. -/
theorem refill_at {refill : StreamCtx → StreamCtx} {ctx : Nat → Nat → StreamCtx}
    (hnew : ∀ q, refill (ctx q 16) = ctx (q + 1) 0) (hkeep : ∀ q pos, pos < 16 → refill (ctx q pos) = ctx q pos)
    {p0 : Nat} (hp : p0 ≤ 16) (k : Nat) :
    refill (ctx (refills p0 k) (kposAt p0 k)) = ctx ((p0 + k) / 16) ((p0 + k) % 16) := by
  obtain ⟨hpos, hq, hr⟩ | ⟨hpos, hq, hr⟩ := kposAt_cases hp k
  · rw [hpos, hq, hr, hnew]
  · rw [hq, hr, hkeep _ _ hpos]

/-- The keystream byte at position p, of the buffered block a or of a new block f q. -/
theorem blockByte_at (a : Block) (f : Nat → Block) (p : Nat) :
    blockByte (if p / 16 = 0 then a else f (p / 16 - 1)) (p % 16)
      = if p < 16 then blockByte a p else blockByte (f (p / 16 - 1)) (p % 16) := by
  by_cases hlt : p < 16
  · rw [if_pos hlt, if_pos (Nat.div_eq_of_lt hlt), Nat.mod_eq_of_lt hlt]
  · rw [if_neg hlt, if_neg (by omega)]

/-! ## OFB (R160) -/

/-- The OFB context after q new mask blocks, at position pos. -/
def ofbCtx (ks : KeySchedule) (c : StreamCtx) (q pos : Nat) : StreamCtx := ⟨(encryptBlock ks)^[q] c.iv, c.ksb, pos⟩

theorem ofbRefill_ofbCtx (ks : KeySchedule) (c : StreamCtx) (q : Nat) :
    ofbRefill ks (ofbCtx ks c q 16) = ofbCtx ks c (q + 1) 0 :=
  (if_pos rfl).trans (by rw [ofbCtx, ofbCtx, Function.iterate_succ_apply'])

theorem ofbStep_ofbCtx (ks : KeySchedule) {c : StreamCtx} (hp : c.kpos ≤ 16) (k : Nat) (b : Byte) :
    ofbStep ks (ofbCtx ks c (refills c.kpos k) (kposAt c.kpos k)) b
      = (ofbCtx ks c (refills c.kpos (k + 1)) (kposAt c.kpos (k + 1)), b ^^^ ofbKeyByte ks c (c.kpos + k)) := by
  have hrefill := refill_at (ofbRefill_ofbCtx ks c) (fun _ _ hpos => if_neg hpos.ne) hp k
  rw [ofbStep, hrefill, refills_succ, kposAt_succ]
  rfl

/-! ## CTR (R163) -/

/-- The CTR context after q new keystream blocks, at position pos. -/
def ctrCtx (ks : KeySchedule) (c : StreamCtx) (q pos : Nat) : StreamCtx where
  iv := c.iv + BitVec.ofNat 128 q
  ksb := if q = 0 then c.ksb else encryptBlock ks (c.iv + BitVec.ofNat 128 (q - 1))
  kpos := pos

theorem ctrRefill_ctrCtx (ks : KeySchedule) (c : StreamCtx) (q : Nat) :
    ctrRefill ks (ctrCtx ks c q 16) = ctrCtx ks c (q + 1) 0 := by
  have hinc : inc128 (c.iv + BitVec.ofNat 128 q) = c.iv + BitVec.ofNat 128 (q + 1) := by
    rw [inc128, BitVec.ofNat_add, BitVec.add_assoc]; rfl
  exact (if_pos rfl).trans (by rw [ctrCtx, ctrCtx, hinc, if_neg q.succ_ne_zero, Nat.add_sub_cancel])

theorem ctrStep_ctrCtx (ks : KeySchedule) {c : StreamCtx} (hp : c.kpos ≤ 16) (k : Nat) (b : Byte) :
    ctrStep ks (ctrCtx ks c (refills c.kpos k) (kposAt c.kpos k)) b
      = (ctrCtx ks c (refills c.kpos (k + 1)) (kposAt c.kpos (k + 1)), b ^^^ ctrKeyByte ks c (c.kpos + k)) := by
  have hrefill := refill_at (ctrRefill_ctrCtx ks c) (fun _ _ hpos => if_neg hpos.ne) hp k
  have hkey : blockByte (ctrCtx ks c ((c.kpos + k) / 16) ((c.kpos + k) % 16)).ksb ((c.kpos + k) % 16)
      = ctrKeyByte ks c (c.kpos + k) :=
    blockByte_at c.ksb (fun q => encryptBlock ks (c.iv + BitVec.ofNat 128 q)) _
  rw [ctrStep, hrefill, refills_succ, kposAt_succ, ← hkey]
  rfl

/-- Settles O42: the running contexts are `ofbCtx` and `ctrCtx`. -/
theorem ofbAndCtrCommandsComplete : Obligations.OfbAndCtrCommandsComplete := by
  intro s hwf hp
  refine ⟨fun hr => ?ofb, fun hr => ?ctr⟩
  case ofb =>
    obtain ⟨t, C, hexec, h⟩ := streamCommand_completes (i := .ofbXor) (step := ofbStep) (fun _ => rfl) hwf hr
    obtain ⟨hlast, hbytes⟩ := h.ctx_eq
      (P := fun k => ofbCtx s.ks0 s.streamCtx (refills s.kpos k) (kposAt s.kpos k))
      (by rw [refills_zero hp, kposAt_zero hp]; rfl) (fun k _ _ => ofbStep_ofbCtx s.ks0 hp k _)
    have hframe := h.frame
    have hksb : t.ksb = s.ksb := congrArg StreamCtx.ksb hlast
    rw [hksb] at hframe
    exact ⟨t, hexec, hframe, h.outside, hbytes, congrArg StreamCtx.kpos hlast, congrArg StreamCtx.iv hlast⟩
  case ctr =>
    obtain ⟨t, C, hexec, h⟩ := streamCommand_completes (i := .ctrXor) (step := ctrStep) (fun _ => rfl) hwf hr
    obtain ⟨hlast, hbytes⟩ := h.ctx_eq
      (P := fun k => ctrCtx s.ks0 s.streamCtx (refills s.kpos k) (kposAt s.kpos k))
      (by rw [refills_zero hp, kposAt_zero hp]; simp [ctrCtx, State.streamCtx])
      (fun k _ _ => ctrStep_ctrCtx s.ks0 hp k _)
    exact ⟨t, hexec, h.frame, h.outside, hbytes, congrArg StreamCtx.kpos hlast, congrArg StreamCtx.ksb hlast,
      congrArg StreamCtx.iv hlast⟩

/-! ## CFB (R155, R156) -/

/-- Byte j of IV after q new keystream blocks, at position pos: the feedback of the block in hand as far as pos, of the
block before it from there on (10_state.md R24). -/
def cfbIvByte (c : StreamCtx) (ct : Nat → Byte) (q pos j : Nat) : Byte :=
  if j < pos then cfbFeedback c ct (16 * q + j)
  else if q = 0 then blockByte c.iv j
  else cfbFeedback c ct (16 * (q - 1) + j)

/-- The CFB context after q new keystream blocks, at position pos. -/
def cfbCtx (ks : KeySchedule) (c : StreamCtx) (ct : Nat → Byte) (q pos : Nat) : StreamCtx where
  iv := blockOf ((List.range 16).map (cfbIvByte c ct q pos))
  ksb := if q = 0 then c.ksb else encryptBlock ks (cfbFeedbackBlock c ct (q - 1))
  kpos := pos

/-- Byte j of a block given byte by byte. -/
theorem blockByte_blockOf_range (f : Nat → Byte) {j : Nat} (hj : j < 16) :
    blockByte (blockOf ((List.range 16).map f)) j = f j := by
  simp [blockByte_blockOf hj, hj]

/-- With no new block and no byte of feedback the context is the one of the start. -/
theorem cfbCtx_zero (ks : KeySchedule) (c : StreamCtx) (ct : Nat → Byte) : cfbCtx ks c ct 0 c.kpos = c := by
  have hiv : blockOf ((List.range 16).map (cfbIvByte c ct 0 c.kpos)) = c.iv := block_ext fun j hj => by
    rw [blockByte_blockOf_range _ hj, cfbIvByte, if_pos rfl, cfbFeedback, Nat.mul_zero, Nat.zero_add]
    split_ifs <;> rfl
  rw [cfbCtx, hiv, if_pos rfl]

theorem cfbRefill_cfbCtx (ks : KeySchedule) (c : StreamCtx) (ct : Nat → Byte) (q : Nat) :
    cfbRefill ks (cfbCtx ks c ct q 16) = cfbCtx ks c ct (q + 1) 0 := by
  have hnew : ∀ j, cfbIvByte c ct (q + 1) 0 j = cfbFeedback c ct (16 * q + j) := fun j => by
    rw [cfbIvByte, if_neg j.not_lt_zero, if_neg q.succ_ne_zero, Nat.add_sub_cancel]
  have hblock : blockOf ((List.range 16).map (cfbIvByte c ct q 16)) = cfbFeedbackBlock c ct q :=
    congrArg blockOf (List.map_congr_left fun j hj => if_pos (List.mem_range.mp hj))
  refine (if_pos rfl).trans ?_
  rw [cfbCtx, cfbCtx, hblock, if_neg q.succ_ne_zero, Nat.add_sub_cancel, funext hnew]
  rfl

/-- The feedback byte of position 16q + pos enters IV at pos. -/
theorem setBlockByte_cfbIv (c : StreamCtx) (ct : Nat → Byte) (q : Nat) {pos : Nat} (hpos : pos < 16) :
    setBlockByte (blockOf ((List.range 16).map (cfbIvByte c ct q pos))) pos (cfbFeedback c ct (16 * q + pos))
      = blockOf ((List.range 16).map (cfbIvByte c ct q (pos + 1))) := by
  refine block_ext fun j hj => ?_
  rw [blockByte_setBlockByte hpos hj, blockByte_blockOf_range _ hj, blockByte_blockOf_range _ hj, cfbIvByte, cfbIvByte]
  obtain hlt | rfl | hgt := lt_trichotomy j pos
  · rw [if_neg hlt.ne, if_pos hlt, if_pos (Nat.lt_succ_of_lt hlt)]
  · rw [if_pos rfl, if_pos (Nat.lt_succ_self j)]
  · rw [if_neg hgt.ne', if_neg hgt.not_gt, if_neg (Nat.not_lt.mpr hgt)]

/-- One step from `cfbCtx`, where ct k is the ciphertext byte of the step: its output or its input. -/
theorem cfbStep_cfbCtx {decrypting : Bool} (ks : KeySchedule) {c : StreamCtx} {ct : Nat → Byte} (hp : c.kpos ≤ 16)
    {k : Nat} {b : Byte}
    (hct : ct k = if decrypting then b
      else (cfbStep decrypting ks (cfbCtx ks c ct (refills c.kpos k) (kposAt c.kpos k)) b).2) :
    cfbStep decrypting ks (cfbCtx ks c ct (refills c.kpos k) (kposAt c.kpos k)) b
      = (cfbCtx ks c ct (refills c.kpos (k + 1)) (kposAt c.kpos (k + 1)), b ^^^ cfbKeyByte ks c ct (c.kpos + k)) := by
  have hrefill := refill_at (cfbRefill_cfbCtx ks c ct) (fun _ _ hpos => if_neg hpos.ne) hp k
  have hkey : blockByte (cfbCtx ks c ct ((c.kpos + k) / 16) ((c.kpos + k) % 16)).ksb ((c.kpos + k) % 16)
      = cfbKeyByte ks c ct (c.kpos + k) :=
    blockByte_at c.ksb (fun q => encryptBlock ks (cfbFeedbackBlock c ct q)) _
  have hfeedback : cfbFeedback c ct (16 * ((c.kpos + k) / 16) + (c.kpos + k) % 16) = ct k := by
    rw [Nat.div_add_mod, cfbFeedback, if_neg (by omega), Nat.add_sub_cancel_left]
  have hiv := setBlockByte_cfbIv c ct ((c.kpos + k) / 16) (pos := (c.kpos + k) % 16) (Nat.mod_lt _ (by decide))
  rw [hfeedback, hct] at hiv
  rw [cfbStep, hrefill] at hiv ⊢
  rw [refills_succ, kposAt_succ, ← hkey]
  exact Prod.ext (congrArg (StreamCtx.mk · _ _) hiv) rfl

/-- A CFB command completes, ct being its ciphertext: the input when deciphering, else the output. -/
theorem cfb_completes {decrypting : Bool} (h : ∀ s, exec i s = streamCommand .cfb (cfbStep decrypting s.ks0) s)
    (hwf : s.mem.wf) (hr : StreamReady .cfb s) (hp : s.kpos ≤ 16) :
    ∃ t ct, exec i s = .next t
      ∧ t = { s with mem := t.mem, iv := t.iv, ksb := t.ksb, kpos := t.kpos, err := none, outLen := s.srcLen }
      ∧ SameOutside s.mem t.mem s.dstAddr.toNat s.srcLen.toNat
      ∧ t.streamCtx = cfbCtx s.ks0 s.streamCtx ct (refills s.kpos s.srcLen.toNat) (kposAt s.kpos s.srcLen.toNat)
      ∧ ∀ k < s.srcLen.toNat, (if decrypting then srcByte s k else t.mem.read (s.dstAddr.toNat + k)) = ct k
        ∧ t.mem.read (s.dstAddr.toNat + k) = srcByte s k ^^^ cfbKeyByte s.ks0 s.streamCtx ct (s.kpos + k) := by
  obtain ⟨t, C, hexec, hdone⟩ := streamCommand_completes (step := cfbStep decrypting) h hwf hr
  obtain ⟨ct, hct⟩ : ∃ ct : Nat → Byte,
      ∀ k, ct k = if decrypting then srcByte s k else t.mem.read (s.dstAddr.toNat + k) := ⟨_, fun _ => rfl⟩
  obtain ⟨hlast, hbytes⟩ := hdone.ctx_eq
    (P := fun k => cfbCtx s.ks0 s.streamCtx ct (refills s.kpos k) (kposAt s.kpos k))
    (by rw [refills_zero hp, kposAt_zero hp]; exact cfbCtx_zero s.ks0 s.streamCtx ct)
    (fun k _ hout => cfbStep_cfbCtx (c := s.streamCtx) s.ks0 hp (hout ▸ hct k))
  exact ⟨t, ct, hexec, hdone.frame, hdone.outside, hlast, fun k hk => ⟨(hct k).symm, hbytes k hk⟩⟩

/-- Settles O41: the running context is `cfbCtx` (`cfb_completes`). -/
theorem cfbCommandsComplete : Obligations.CfbCommandsComplete := by
  intro s hwf hr hp i hi
  have hdec : ∃ decrypting : Bool, (∀ s, exec i s = streamCommand .cfb (cfbStep decrypting s.ks0) s)
      ∧ (decrypting = true ↔ ¬ i = .cfbEnc) := by
    simp only [List.mem_cons, List.not_mem_nil, or_false] at hi
    obtain rfl | rfl := hi
    · exact ⟨false, fun _ => rfl, by decide⟩
    · exact ⟨true, fun _ => rfl, by decide⟩
  obtain ⟨decrypting, h, hi⟩ := hdec
  obtain ⟨t, ct, hexec, hframe, houtside, hctx, hbytes⟩ := cfb_completes h hwf hr hp
  have hkpos : t.kpos = kposAt s.kpos s.srcLen.toNat := congrArg StreamCtx.kpos hctx
  refine ⟨t, hexec, hframe, houtside, ct, ?_, hkpos, congrArg StreamCtx.ksb hctx, fun j hj => ?_⟩
  · simpa only [hi, ite_not] using hbytes
  · have hiv := congrArg (blockByte ·.iv j) hctx
    rw [hkpos]
    exact hiv.trans (blockByte_blockOf_range _ hj)

end Sys2Proof.Machine
end

section
/-! SUPPORT. The reverse command of each confidentiality mode gives the input of the forward command back
(43_block_stream_modes.md R175). -/

namespace Sys2Proof.Machine

/-! ## Runs that undo each other -/

/-- From the same running value v, dec takes the output of enc back to its input, and both go on to the same value. -/
def Undoes {σ α : Type} (dec enc : σ → α → σ × α) : Prop := ∀ v b, dec v (enc v b).2 = ((enc v b).1, b)

theorem chain_undoes {dec enc : Block → Block → Block × Block} (h : Undoes dec enc) (v : Block) (bs : List Block) :
    chain dec v (chain enc v bs).2 = ((chain enc v bs).1, bs) := by
  induction bs generalizing v with
  | nil => rfl
  | cons b bs ih => rw [chain_cons, chain_cons, h, ih]

theorem streamRun_undoes {dec enc : StreamCtx → Byte → StreamCtx × Byte} (h : Undoes dec enc) (c : StreamCtx)
    (bs : Bytes) : streamRun dec c (streamRun enc c bs).2 = ((streamRun enc c bs).1, bs) := by
  induction bs generalizing c with
  | nil => rfl
  | cons b bs ih => rw [streamRun_cons, streamRun_cons, h, ih]

variable {e d : Instr} {u : ModeUnit}

/-- The commands e and d are runs, and under the schedule of any key d's run undoes e's. -/
structure RunsBack (e d : Instr) (u : ModeUnit) (g : Nat)
    (run back : KeySchedule → StreamCtx → Bytes → StreamCtx × Bytes) : Prop where
  forward : RunsOver e u g run
  backward : RunsOver d u g back
  undoes : ∀ key c bs, g ∣ bs.length → (back (keyExp key) c (run (keyExp key) c bs).2).2 = bs

theorem runsBack_of_blockCommand {enc dec : KeySchedule → Block → Block → Block × Block}
    (he : ∀ s, exec e s = blockCommand u (enc s.ks0) s) (hd : ∀ s, exec d s = blockCommand u (dec s.ks0) s)
    (h : ∀ key, Undoes (dec (keyExp key)) (enc (keyExp key))) :
    RunsBack e d u 16 (fun ks => blockRun (enc ks)) (fun ks => blockRun (dec ks)) where
  forward := runsOver_of_blockCommand he
  backward := runsOver_of_blockCommand hd
  undoes key c bs hbs := by
    rw [blockRun, blockRun, blocksOf_bytesOfBlocks, chain_undoes (h key),
      bytesOfBlocks_blocksOf (Nat.mod_eq_zero_of_dvd hbs)]

theorem runsBack_of_streamCommand {enc dec : KeySchedule → StreamCtx → Byte → StreamCtx × Byte}
    (he : ∀ s, exec e s = streamCommand u (enc s.ks0) s) (hd : ∀ s, exec d s = streamCommand u (dec s.ks0) s)
    (h : ∀ ks, Undoes (dec ks) (enc ks)) :
    RunsBack e d u 1 (fun ks => streamRun (enc ks)) (fun ks => streamRun (dec ks)) where
  forward := runsOver_of_streamCommand he
  backward := runsOver_of_streamCommand hd
  undoes key c bs _ := by rw [streamRun_undoes (h _)]

/-! ## One step of each mode -/

theorem ecb_undoes (key : Block) : Undoes (ecbStep (decryptBlock (keyExp key))) (ecbStep (encryptBlock (keyExp key))) :=
  fun v b => by rw [ecbStep, ecbStep, decryptBlock_encryptBlock]

theorem cbc_undoes (key : Block) : Undoes (cbcDecStep (keyExp key)) (cbcEncStep (keyExp key)) := fun v b => by
  rw [cbcDecStep, cbcEncStep, decryptBlock_encryptBlock, xor_cancel_right]

theorem bc_undoes (key : Block) : Undoes (bcDecStep (keyExp key)) (bcEncStep (keyExp key)) := fun v b => by
  rw [bcDecStep, bcEncStep, decryptBlock_encryptBlock, xor_cancel_right]

theorem ofbnlf_undoes (ks : KeySchedule) : Undoes (ofbnlfStep decryptBlock ks) (ofbnlfStep encryptBlock ks) :=
  fun v b => by rw [ofbnlfStep, ofbnlfStep, decryptBlock_encryptBlock]

/-- Both directions put the ciphertext byte into IV (R155, R156). -/
theorem cfb_undoes (ks : KeySchedule) : Undoes (cfbStep true ks) (cfbStep false ks) := fun v b => by
  rw [cfbStep, cfbStep, xor_cancel_right]
  rfl

theorem ofb_undoes (ks : KeySchedule) : Undoes (ofbStep ks) (ofbStep ks) := fun v b => by
  rw [ofbStep, ofbStep, xor_cancel_right]

theorem ctr_undoes (ks : KeySchedule) : Undoes (ctrStep ks) (ctrStep ks) := fun v b => by
  rw [ctrStep, ctrStep, xor_cancel_right]

/-- Each pair of commands is a pair of runs, over whole blocks for the block units. -/
theorem exists_runsBack
    (h : (e, d, u) ∈ [(Instr.ecbEnc, Instr.ecbDec, ModeUnit.ecb), (.cbcEnc, .cbcDec, .cbc), (.cfbEnc, .cfbDec, .cfb),
      (.ofbXor, .ofbXor, .ofb), (.ctrXor, .ctrXor, .ctr), (.bcEnc, .bcDec, .bc), (.ofbnlfEnc, .ofbnlfDec, .ofbnlf)]) :
    (u ∈ [ModeUnit.ecb, .cbc, .bc, .ofbnlf] ∧ ∃ run back, RunsBack e d u 16 run back)
      ∨ ∃ run back, RunsBack e d u 1 run back := by
  simp only [List.mem_cons, Prod.mk.injEq, List.not_mem_nil, or_false] at h
  rcases h with ⟨rfl, rfl, rfl⟩ | ⟨rfl, rfl, rfl⟩ | ⟨rfl, rfl, rfl⟩ | ⟨rfl, rfl, rfl⟩ | ⟨rfl, rfl, rfl⟩ | ⟨rfl, rfl, rfl⟩
    | ⟨rfl, rfl, rfl⟩
  · exact .inl ⟨by decide, _, _, runsBack_of_blockCommand (enc := fun ks => ecbStep (encryptBlock ks))
      (dec := fun ks => ecbStep (decryptBlock ks)) (fun _ => ecbCommand_eq ..) (fun _ => ecbCommand_eq ..) ecb_undoes⟩
  · exact .inl ⟨by decide, _, _, runsBack_of_blockCommand (enc := cbcEncStep) (dec := cbcDecStep) (fun _ => rfl)
      (fun _ => rfl) cbc_undoes⟩
  · exact .inr ⟨_, _, runsBack_of_streamCommand (enc := cfbStep false) (dec := cfbStep true) (fun _ => rfl) (fun _ => rfl)
      cfb_undoes⟩
  · exact .inr ⟨_, _, runsBack_of_streamCommand (enc := ofbStep) (dec := ofbStep) (fun _ => rfl) (fun _ => rfl) ofb_undoes⟩
  · exact .inr ⟨_, _, runsBack_of_streamCommand (enc := ctrStep) (dec := ctrStep) (fun _ => rfl) (fun _ => rfl) ctr_undoes⟩
  · exact .inl ⟨by decide, _, _, runsBack_of_blockCommand (enc := bcEncStep) (dec := bcDecStep) (fun _ => rfl)
      (fun _ => rfl) bc_undoes⟩
  · exact .inl ⟨by decide, _, _, runsBack_of_blockCommand (enc := ofbnlfStep encryptBlock)
      (dec := ofbnlfStep decryptBlock) (fun _ => rfl) (fun _ => rfl) fun _ => ofbnlf_undoes _⟩

/-- The law for one pair: t is where e leaves s, and src of v holds e's result. -/
theorem RunsBack.round_trip {g : Nat} {run back : KeySchedule → StreamCtx → Bytes → StreamCtx × Bytes} {key : Block}
    {s t v : State} (h : RunsBack e d u g run back) (hwf : s.mem.wf) (hwfv : v.mem.wf) (hks : s.ks0 = keyExp key)
    (hksv : v.ks0 = s.ks0) (hctx : v.streamCtx = s.streamCtx) (hr : StreamReady u s) (hn : g ∣ s.srcLen.toNat)
    (hexec : exec e s = .next t) (hlen : v.srcLen = s.srcLen)
    (hsrc : srcBytes v s.srcLen.toNat = t.mem.readBytes s.dstAddr.toNat s.srcLen.toNat) (hrv : StreamReady u v) :
    ∃ w, exec d v = .next w ∧ w.err = none
      ∧ w.mem.readBytes v.dstAddr.toNat s.srcLen.toNat = srcBytes s s.srcLen.toNat := by
  obtain ⟨t', hexec', _, _, hlength, hwritten⟩ := h.forward.completes hwf hr hn
  obtain rfl : t' = t := Host.Outcome.next.inj (hexec'.symm.trans hexec)
  have hresult : v.fetchAll .src = (run s.ks0 s.streamCtx (s.fetchAll .src)).2 :=
    calc v.fetchAll .src = srcBytes v s.srcLen.toNat := by rw [← hlen]; rfl
      _ = _ := hsrc
      _ = _ := by rw [← hlength]; exact readBytes_of_written hwritten
  have hback : (back v.ks0 v.streamCtx (v.fetchAll .src)).2 = s.fetchAll .src := by
    rw [hresult, hctx, hksv, hks]
    exact h.undoes key _ _ (by rwa [State.fetchAll, fetch_length])
  obtain ⟨w, hw, hframe, _, hlengthv, hwrittenv⟩ := h.backward.completes hwfv hrv (hlen ▸ hn)
  have hread := readBytes_of_written hwrittenv
  rw [hlengthv, hback, hlen] at hread
  exact ⟨w, hw, by rw [hframe], hread⟩

/-- Settles O57: each pair is a pair of runs (`exists_runsBack`), and a run back gives the input
(`RunsBack.round_trip`). -/
theorem modeRoundTrips : Obligations.ModeRoundTrips := by
  intro e d u key s t v hi hwf hwfv hks hksv hiv hksb hkpos hr hblocks hexec hlen hsrc hrv
  obtain ⟨g, run, back, h, hn⟩ : ∃ g run back, RunsBack e d u g run back ∧ g ∣ s.srcLen.toNat := by
    rcases exists_runsBack hi with ⟨hu, run, back, h⟩ | ⟨run, back, h⟩
    · exact ⟨16, run, back, h, Nat.dvd_of_mod_eq_zero (hblocks hu)⟩
    · exact ⟨1, run, back, h, Nat.one_dvd _⟩
  have hctx : v.streamCtx = s.streamCtx := by rw [State.streamCtx, hiv, hksb, hkpos]; rfl
  exact h.round_trip hwf hwfv hks hksv hctx hr hn hexec hlen hsrc hrv

end Sys2Proof.Machine
end

section
/-! SUPPORT. The IEEE doubling of an XTS tweak as doubling of its little-endian number (44_xts_hctr.md R183). -/

namespace Sys2Proof.Machine

/-- The number a byte string is, read little-endian: byte 0 the least significant. -/
def leVal (bs : Bytes) : Nat := beVal bs.reverse

@[simp] theorem leVal_nil : leVal [] = 0 := rfl

theorem leVal_cons (x : Byte) (bs : Bytes) : leVal (x :: bs) = x.toNat + 256 * leVal bs := by
  have hx : beVal [x] = x.toNat := by simp [beVal]
  rw [leVal, List.reverse_cons, beVal_append, hx, List.length_singleton, pow_one, Nat.add_comm, Nat.mul_comm, leVal]

/-- As a number, a 16-byte string is its block. -/
theorem beVal_eq_toNat {bs : Bytes} (h : bs.length = 16) : beVal bs = (blockOf bs).toNat := by
  have hlt := beVal_lt bs
  rw [h] at hlt
  rw [blockOf, List.take_of_length_le h.le, padBlock_full h, BitVec.toNat_ofNat,
    Nat.mod_eq_of_lt (lt_of_lt_of_eq hlt (by norm_num))]

theorem leVal_eq_toNat {bs : Bytes} (h : bs.length = 16) : leVal bs = (blockOf bs.reverse).toNat :=
  beVal_eq_toNat (by rwa [List.length_reverse])

/-- XOR of two blocks is XOR of their little-endian numbers. -/
theorem leVal_bytesOf_xor (a b : Block) : leVal (bytesOf (a ^^^ b)) = leVal (bytesOf a) ^^^ leVal (bytesOf b) := by
  have hlen : (bytesOf a).length = (bytesOf b).length := by rw [bytesOf_length, bytesOf_length]
  have hreverse : (xorBytes (bytesOf a) (bytesOf b)).reverse = xorBytes (bytesOf a).reverse (bytesOf b).reverse :=
    List.reverse_zipWith hlen
  rw [leVal_eq_toNat (bytesOf_length _), bytesOf_xor, hreverse, blockOf_xorBytes (by simp), BitVec.toNat_xor,
    leVal_eq_toNat (bytesOf_length _), leVal_eq_toNat (bytesOf_length _)]

/-! ## The shift by one bit -/

@[simp] theorem shiftBytesLeft_length (carry : Byte) (bs : Bytes) : (shiftBytesLeft carry bs).length = bs.length := by
  induction bs generalizing carry with
  | nil => rfl
  | cons x bs ih => simp [shiftBytesLeft, ih]

/-- One byte of the shift: doubled within its eight bits, the carry coming in below. -/
theorem shifted_byte_toNat (x : Byte) {carry : Byte} (hc : carry.toNat ≤ 1) :
    ((x <<< 1) ||| carry).toNat = (2 * x.toNat + carry.toNat) % 256
      ∧ (x >>> 7).toNat = (2 * x.toNat + carry.toNat) / 256 := by
  obtain rfl | rfl : carry = 0 ∨ carry = 1 := by
    rcases Nat.le_one_iff_eq_zero_or_eq_one.mp hc with h | h
    · exact .inl (BitVec.eq_of_toNat_eq h)
    · exact .inr (BitVec.eq_of_toNat_eq h)
  · revert x; decide
  · revert x; decide

/-- The byte-by-byte shift doubles the little-endian number and adds the carry, within its bytes (R183). -/
theorem leVal_shiftBytesLeft {carry : Byte} (hc : carry.toNat ≤ 1) (bs : Bytes) :
    leVal (shiftBytesLeft carry bs) = (2 * leVal bs + carry.toNat) % 256 ^ bs.length := by
  induction bs generalizing carry with
  | nil => simp [shiftBytesLeft, Nat.mod_one]
  | cons x bs ih =>
    obtain ⟨hlow, hout⟩ := shifted_byte_toNat x hc
    have hx := x.isLt
    have hout1 : (x >>> 7).toNat ≤ 1 := by omega
    have hdiv : (2 * (x.toNat + 256 * leVal bs) + carry.toNat) / 256 = 2 * leVal bs + (x >>> 7).toNat := by omega
    have hmod : (2 * (x.toNat + 256 * leVal bs) + carry.toNat) % 256 = (2 * x.toNat + carry.toNat) % 256 := by omega
    rw [shiftBytesLeft, leVal_cons, ih hout1, hlow, leVal_cons, List.length_cons, pow_succ', Nat.mod_mul, hdiv, hmod]

/-- The bit that the doubling feeds back is the top bit of the little-endian number. -/
theorem topBit_eq_decide (t : Block) :
    (blockByte t 15).getLsbD 7 = decide (2 ^ 127 ≤ leVal (bytesOf t)) := by
  have hfirst : blockByte (blockOf (bytesOf t).reverse) 0 = blockByte t 15 := by
    rw [blockByte_blockOf (by decide), List.getD, List.getElem?_reverse (by simp), bytesOf_length,
      getElem?_bytesOf (by decide), Option.getD_some]
  have hmsb : (blockByte (blockOf (bytesOf t).reverse) 0).getLsbD 7 = (blockOf (bytesOf t).reverse).msb := by
    rw [blockByte_getLsbD, BitVec.msb_eq_getLsbD_last, show decide (7 < 8) = true by decide, Bool.true_and]
  rw [← hfirst, hmsb, BitVec.msb_eq_decide, ← leVal_eq_toNat (bytesOf_length t)]

/-- Settles O43: the shift doubles modulo 2^128 (`leVal_shiftBytesLeft`), and the byte fed back is 0x87 where the top bit
was set. -/
theorem xtsDoublingIsLittleEndian : Obligations.XtsDoublingIsLittleEndian := by
  intro t
  change leVal (bytesOf (xtsMul2Ieee t))
    = (2 * leVal (bytesOf t) % 2 ^ 128) ^^^ (if 2 ^ 127 ≤ leVal (bytesOf t) then 0x87 else 0)
  have hshift : leVal (bytesOf (blockOf (shiftBytesLeft 0 (bytesOf t)))) = 2 * leVal (bytesOf t) % 2 ^ 128 := by
    rw [bytesOf_blockOf (by simp), leVal_shiftBytesLeft (by decide), bytesOf_length,
      show (256 : Nat) ^ 16 = 2 ^ 128 by norm_num, show (0 : Byte).toNat = 0 by decide, Nat.add_zero]
  have hfeedback : leVal (bytesOf (0x87#128 <<< 120)) = 0x87 := by decide
  by_cases htop : 2 ^ 127 ≤ leVal (bytesOf t)
  · have hbit : (blockByte t 15).getLsbD 7 = true := (topBit_eq_decide t).trans (decide_eq_true htop)
    rw [xtsMul2Ieee, if_pos hbit, if_pos htop, leVal_bytesOf_xor, hshift, hfeedback]
  · have hbit : ¬(blockByte t 15).getLsbD 7 = true := by rw [topBit_eq_decide t, decide_eq_true_iff]; exact htop
    rw [xtsMul2Ieee, if_neg hbit, if_neg htop, hshift, Nat.xor_zero]

end Sys2Proof.Machine
end

section
/-! SUPPORT. Uhash as one hash over the message joined with the tweak (44_xts_hctr.md R191, R192). -/

namespace Sys2Proof.Machine

/-! ## Update over joined and padded strings (41_gf128.md R107) -/

/-- Update over whole blocks and then the rest is Update over the joined string. -/
theorem gfUpdate_append (p : List Elem) (y : Elem) {a : Bytes} (h : a.length % 16 = 0) (b : Bytes) :
    gfUpdate p y (a ++ b) = gfUpdate p (gfUpdate p y a) b := by
  rw [gfUpdate, blocksOf_append h, List.foldl_append, gfUpdate, gfUpdate]

theorem blockOf_append_zeros (bs : Bytes) (k : Nat) : blockOf (bs ++ zeros k) = blockOf bs := by
  refine block_ext fun j hj => ?_
  rw [blockByte_blockOf hj, blockByte_blockOf hj, List.getD, List.getD, zeros]
  by_cases hjl : j < bs.length
  · rw [List.getElem?_append_left hjl]
  · rw [List.getElem?_append_right (by omega), List.getElem?_eq_none (l := bs) (by omega), List.getElem?_replicate]
    split_ifs <;> rfl

/-- Zeros that only fill up the last block leave the blocks as they are. -/
theorem blocksOf_append_zeros {bs : Bytes} {k : Nat} (h : (bs.length + k + 15) / 16 = (bs.length + 15) / 16) :
    blocksOf (bs ++ zeros k) = blocksOf bs := by
  refine List.ext_getElem? fun i => ?_
  rw [blocksOf_getElem?, blocksOf_getElem?, List.length_append, zeros_length, h]
  split_ifs with hi
  · rw [List.drop_append_of_le_length (by omega), blockOf_append_zeros]
  · rfl

theorem gfUpdate_append_zeros (p : List Elem) (y : Elem) {bs : Bytes} {k : Nat}
    (h : (bs.length + k + 15) / 16 = (bs.length + 15) / 16) : gfUpdate p y (bs ++ zeros k) = gfUpdate p y bs := by
  rw [gfUpdate, blocksOf_append_zeros h, gfUpdate]

/-! ## The parts of Uhash -/

theorem elemOfBlock_setWidth (w : DWord) : elemOfBlock (w.setWidth 128) = ⟨0, w⟩ := by
  have hlow : (w.setWidth 128).extractLsb' 64 64 = 0 := by
    apply BitVec.eq_of_getLsbD_eq
    intro i hi
    simp
  have hhigh : (w.setWidth 128).extractLsb' 0 64 = w := by
    apply BitVec.eq_of_getLsbD_eq
    intro i hi
    simp [hi, show i < 128 by omega]
  rw [elemOfBlock, hlow, hhigh]

/-- The length word absorbed: its low word is zero, its high word the length in bits (R192). -/
theorem elemOfBlock_lenWord (n : Nat) : elemOfBlock (blockOf (lenWord n)) = ⟨0, bitLength (n + 16)⟩ := by
  have hval : beVal (lenWord n) = (bitLength (n + 16)).toNat := by
    rw [lenWord, beVal_append, beVal_be (lt_of_lt_of_eq (bitLength (n + 16)).isLt (by norm_num)),
      show beVal (zeros 8) = 0 by decide, Nat.zero_mul, Nat.zero_add]
  have hblock : blockOf (lenWord n) = (bitLength (n + 16)).setWidth 128 := by
    apply BitVec.eq_of_toNat_eq
    rw [← beVal_eq_toNat (lenWord_length n), hval, BitVec.toNat_setWidth_of_le (by decide)]
  rw [hblock, elemOfBlock_setWidth]

/-- After the full blocks of the message, its rest is completed with the tweak and with zeros (R191). -/
theorem gfUpdate_uhashTail (p : List Elem) (y : Elem) (tw : Block) {rest : Bytes} (h : rest.length < 16) :
    gfUpdate p y (uhashTail (bytesOf tw) rest) = gfUpdate p y (rest ++ bytesOf tw) := by
  rw [uhashTail]
  split_ifs with hpartial
  · rw [← List.append_assoc, List.append_assoc rest, List.take_append_drop]
    exact gfUpdate_append_zeros p y (by rw [List.length_append, bytesOf_length]; omega)
  · rw [List.length_eq_zero_iff.mp (Nat.eq_zero_of_not_pos hpartial), List.nil_append]

/-- Uhash is Update from zero over message and tweak as one string, then the length word absorbed. -/
theorem uhash_eq (p : List Elem) (tw : Block) (m : Bytes) :
    uhash p tw m = blockOfElem
      (gfMul p (gfAdd (gfUpdate p Elem.zero (m ++ bytesOf tw)) ⟨0, bitLength (m.length + 16)⟩)) := by
  have hfull : (m.take (16 * (m.length / 16))).length % 16 = 0 := by rw [List.length_take]; omega
  have hrest : (m.drop (16 * (m.length / 16))).length < 16 := by rw [List.length_drop]; omega
  have hjoined : gfUpdate p (gfUpdate p Elem.zero (m.take (16 * (m.length / 16))))
      (uhashTail (bytesOf tw) (m.drop (16 * (m.length / 16)))) = gfUpdate p Elem.zero (m ++ bytesOf tw) := by
    rw [gfUpdate_uhashTail _ _ _ hrest, ← gfUpdate_append _ _ hfull, ← List.append_assoc, List.take_append_drop]
  rw [uhash, hjoined, gfAbsorb, elemOfBlock_lenWord]

/-- Settles O48: the 64 bits of the length word are `bitLength`, exact or free as the length allows (`uhash_eq`). -/
theorem uhashIsOneHashOfMessageAndTweak : Obligations.UhashIsOneHashOfMessageAndTweak := by
  intro p tw m
  refine ⟨bitLength (m.length + 16), fun hfits => ?_, fun hoverlong => ?_, uhash_eq p tw m⟩
  · rw [Nat.mul_comm] at hfits ⊢
    exact bitLength_toNat hfits
  · rw [Nat.mul_comm] at hoverlong
    exact bitLength_overlong hoverlong

end Sys2Proof.Machine
end

section
/-! SUPPORT. XTS.INIT and HCTR.INIT complete (44_xts_hctr.md R181, R190). -/

namespace Sys2Proof.Machine

variable {s : State}

theorem xtsInit_pass :
    ChecksPass .xtsInit s ↔ s.keyLen.toNat = 32 ∧ (s.cfgDialect = 1 → s.params.hasXtsGbMul2 = true)
      ∧ InMemory s s.keyAddr.toNat 32 := by
  have hdialect : (s.cfgDialect == 1 && !s.params.hasXtsGbMul2) = false
      ↔ (s.cfgDialect = 1 → s.params.hasXtsGbMul2 = true) := by
    rw [Bool.and_eq_false_imp, beq_iff_eq, Bool.not_eq_false']
  rw [ChecksPass, checksOf, List.forall_mem_cons, List.forall_mem_cons, List.forall_mem_singleton, failIf_decide_fails,
    not_not, failIf_fails, hdialect, busCheck_fails, List.forall_mem_singleton]
  rfl

theorem hctrInit_pass :
    ChecksPass .hctrInit s ↔ s.ks0.valid = true ∧ s.auxLen.toNat = 16 ∧ s.ivLen.toNat = 16
      ∧ InMemory s s.ivAddr.toNat 16 ∧ InMemory s s.auxAddr.toNat 16 := by
  rw [ChecksPass, checksOf, List.forall_mem_cons, List.forall_mem_cons, List.forall_mem_cons, List.forall_mem_singleton,
    seqCheck_fails, failIf_decide_fails, not_not, failIf_decide_fails, not_not, busCheck_fails, List.forall_mem_cons,
    List.forall_mem_singleton]
  rfl

/-- Settles O44: the checks pass, and the two keys are the blocks the double key's halves are. -/
theorem xtsInitCompletes : Obligations.XtsInitCompletes := by
  intro s hf hlen hkey hdialect
  have hfirst : blockOf ((s.fetch .key 32).take 16) = s.mem.block s.keyAddr.toNat := by
    rw [State.fetch, take_readBytes]; rfl
  have hsecond : blockOf ((s.fetch .key 32).drop 16) = s.mem.block (s.keyAddr.toNat + 16) := by
    rw [State.fetch, drop_readBytes]; rfl
  rw [exec_of_pass hf (xtsInit_pass.mpr ⟨hlen, hdialect, hkey⟩), effectOf, hfirst, hsecond]
  rfl

/-- Settles O46: the checks pass, and the effect of HCTR.INIT is the state the statement writes out. -/
theorem hctrInitCompletes : Obligations.HctrInitCompletes := by
  intro s hf hks haux hivLen hiv hauxIn
  rw [exec_of_pass hf (hctrInit_pass.mpr ⟨hks, haux, hivLen, hiv, hauxIn⟩)]
  rfl

end Sys2Proof.Machine
end

section
/-! SUPPORT. A command that delivers a result as long as its input: what it leaves, and that a second one which takes the
result back gives the input (20_memory.md R49; 44_xts_hctr.md R186, R195). -/

namespace Sys2Proof.Machine

variable {e d i : Instr} {s t v : State} {out : Bytes}

/-- The command i at s delivers out, which is as long as src. -/
structure Delivers (i : Instr) (s : State) (out : Bytes) : Prop where
  exec_eq : exec i s = .next (s.deliver out)
  length_eq : out.length = s.srcLen.toNat

theorem delivers_of_pass (hf : s.fault = false) (hc : ChecksPass i s) (heffect : effectOf i s = s.deliver out)
    (hlength : out.length = s.srcLen.toNat) : Delivers i s out :=
  ⟨(exec_of_pass hf hc).trans (congrArg _ heffect), hlength⟩

/-- Only the result at dst, ERR and OUT_LEN change (R49). -/
theorem Delivers.completes (h : Delivers i s out) (hwf : s.mem.wf) :
    ∃ t, exec i s = .next t ∧ t = { s with mem := t.mem, err := none, outLen := s.srcLen }
      ∧ SameOutside s.mem t.mem s.dstAddr.toNat s.srcLen.toNat ∧ Written s.mem t.mem s.dstAddr.toNat out := by
  have hwritten := written_writeBytes hwf s.dstAddr.toNat out
  refine ⟨s.deliver out, h.exec_eq, ?_, h.length_eq ▸ hwritten.1, hwritten⟩
  rw [deliver_eq, h.length_eq, BitVec.ofNat_toNat, BitVec.setWidth_eq]

/-- Where src of v holds what e delivered at s, and back takes that to the input of e, d gives the input of e. -/
theorem Delivers.round_trip {back : Bytes → Bytes} (he : Delivers e s out)
    (hd : Delivers d v (back (v.fetchAll .src))) (hback : back out = s.fetchAll .src) (hwf : s.mem.wf) (hwfv : v.mem.wf)
    (hexec : exec e s = .next t) (hlen : v.srcLen = s.srcLen)
    (hsrc : srcBytes v s.srcLen.toNat = t.mem.readBytes s.dstAddr.toNat s.srcLen.toNat) :
    ∃ w, exec d v = .next w ∧ w.err = none
      ∧ w.mem.readBytes v.dstAddr.toNat s.srcLen.toNat = srcBytes s s.srcLen.toNat := by
  obtain ⟨t', hexec', _, _, hwritten⟩ := he.completes hwf
  obtain rfl : t' = t := Host.Outcome.next.inj (hexec'.symm.trans hexec)
  have hresult : v.fetchAll .src = out :=
    calc v.fetchAll .src = srcBytes v s.srcLen.toNat := by rw [← hlen]; rfl
      _ = _ := hsrc
      _ = _ := by rw [← he.length_eq]; exact readBytes_of_written hwritten
  obtain ⟨w, hw, hframe, _, hwrittenv⟩ := hd.completes hwfv
  have hread := readBytes_of_written hwrittenv
  rw [hd.length_eq, hlen, hresult, hback] at hread
  exact ⟨w, hw, by rw [hframe], hread⟩

end Sys2Proof.Machine
end

section
/-! SUPPORT. What an XTS sector is made of, with and without ciphertext stealing (44_xts_hctr.md R185, R186). -/

namespace Sys2Proof.Machine

/-! ## The full blocks of a sector under the doubled tweaks (R185) -/

section
variable (f mul2 : Block → Block) (tweak : Block)

/-- The full blocks under the tweak, the tweak doubled, and so on. -/
def xtsBlocks (bs : List Block) : List Block := (chain (xtsStep f mul2) tweak bs).2

@[simp] theorem xtsBlocks_length (bs : List Block) : (xtsBlocks f mul2 tweak bs).length = bs.length := chain_length ..

/-- The running tweak of a sector is the tweak doubled once for each block before. -/
theorem chain_xtsStep_fst (bs : List Block) : (chain (xtsStep f mul2) tweak bs).1 = mul2^[bs.length] tweak := by
  induction bs generalizing tweak with
  | nil => rfl
  | cons b bs ih => rw [chain_cons, List.length_cons, Function.iterate_succ_apply, ← ih]; rfl

theorem xtsBlocks_getElem? {bs : List Block} {j : Nat} {b : Block} (h : bs[j]? = some b) :
    (xtsBlocks f mul2 tweak bs)[j]? = some (xtsBlock f (mul2^[j] tweak) b) := by
  obtain ⟨hj, _⟩ := List.getElem?_eq_some_iff.mp h
  rw [xtsBlocks, chain_getElem?, h, Option.map_some, runningValue, chain_xtsStep_fst, List.length_take,
    Nat.min_eq_left hj.le]
  rfl

end

/-! ## A sector by its parts -/

/-- The partial block filled up with the last bytes of the block done before it, the donor (R185). -/
def xtsFilled (donor : Block) (rest : Bytes) : Block := blockOf (rest ++ (bytesOf donor).drop rest.length)

/-- Ciphertext stealing: the last full block becomes the donor under one tweak, the partial block filled up from it is
done under the other, and the donor's leading bytes come last (R185, R186). -/
def xtsStolen (f : Block → Block) (donorTweak filledTweak last : Block) (rest : Bytes) : Bytes :=
  bytesOf (xtsBlock f filledTweak (xtsFilled (xtsBlock f donorTweak last) rest))
    ++ (bytesOf (xtsBlock f donorTweak last)).take rest.length

/-- A string cut into k blocks, one more block, and the rest. -/
theorem append_block_append_rest {src : Bytes} {k : Nat} (h : 16 * k + 16 ≤ src.length) :
    src.take (16 * k) ++ (bytesOf (blockOf (src.drop (16 * k))) ++ src.drop (16 * k + 16)) = src := by
  rw [← blockOf_take, bytesOf_blockOf (by rw [List.length_take, List.length_drop]; omega), ← List.drop_drop,
    List.take_append_drop, List.take_append_drop]

section
variable (f mul2 first second : Block → Block) (tweak : Block)

theorem xtsSector_of_whole {src : Bytes} (h : src.length % 16 = 0) :
    xtsSector f mul2 first second tweak src = bytesOfBlocks (xtsBlocks f mul2 tweak (blocksOf src)) := by
  have hall : src.take (16 * (src.length / 16)) = src := List.take_of_length_le (by omega)
  unfold xtsSector
  simp only [h, if_true, hall, xtsBlocks]

/-- A sector with a partial block: k blocks, then the stealing between the last full block and the partial one. -/
theorem xtsSector_of_partial {body rest : Bytes} {k : Nat} (last : Block) (hbody : body.length = 16 * k)
    (hpos : 0 < rest.length) (hrest : rest.length < 16) :
    xtsSector f mul2 first second tweak (body ++ (bytesOf last ++ rest))
      = bytesOfBlocks (xtsBlocks f mul2 tweak (blocksOf body))
        ++ xtsStolen f (first (mul2^[k] tweak)) (second (mul2^[k] tweak)) last rest := by
  have hlen : (body ++ (bytesOf last ++ rest)).length = 16 * k + (16 + rest.length) := by simp [hbody]
  have hmod : (16 * k + (16 + rest.length)) % 16 = rest.length := by omega
  have hdiv : (16 * k + (16 + rest.length)) / 16 = k + 1 := by omega
  have hblocks : (blocksOf body).length = k := by rw [blocksOf_length]; omega
  have htake : (body ++ (bytesOf last ++ rest)).take (16 * k) = body := List.take_left' hbody
  have hdrop : (body ++ (bytesOf last ++ rest)).drop (16 * k) = bytesOf last ++ rest := List.drop_left' hbody
  have hlast : (bytesOf last ++ rest).take 16 = bytesOf last := List.take_left' (bytesOf_length last)
  have hend : (body ++ (bytesOf last ++ rest)).drop (16 * (k + 1)) = rest := by
    rw [Nat.mul_succ, ← List.drop_drop, hdrop, List.drop_left' (bytesOf_length last)]
  unfold xtsSector
  simp only [hlen, hmod, hdiv, Nat.ne_of_gt hpos, if_false, Nat.add_sub_cancel, htake, hdrop, hlast, hend,
    blockOf_bytesOf, chain_xtsStep_fst, hblocks]
  rw [List.append_assoc]
  rfl

end

end Sys2Proof.Machine
end

section
/-! SUPPORT. XTS.ENC and XTS.DEC complete (44_xts_hctr.md R182, R184 to R186). -/

namespace Sys2Proof.Machine

variable {i : Instr} {s t : State} {f first second : Block → Block}

/-- The checks of the XTS data commands pass exactly where they may run (R185). -/
theorem xtsChecks_pass (hf : s.fault = false) : (∀ c ∈ xtsChecks s, c.fails = false) ↔ XtsReady s := by
  rw [xtsChecks, List.forall_mem_cons, List.forall_mem_cons, List.forall_mem_cons, List.forall_mem_cons,
    List.forall_mem_cons, List.forall_mem_cons, List.forall_mem_singleton, seqCheck_fails, Bool.and_eq_true,
    Bool.and_eq_true, bound_iff, failIf_decide_fails, not_not, failIf_decide_fails, Nat.not_lt, failIf_decide_fails,
    Nat.not_le, capCheck_fails, busCheck_fails, List.forall_mem_cons, List.forall_mem_cons, List.forall_mem_singleton,
    overlapCheck_fails]
  exact ⟨fun ⟨⟨⟨hu, hks0⟩, hks1⟩, hiv, hmin, hmax, hcap, ⟨hivIn, hsrc, hdst⟩, happart⟩ =>
      ⟨⟨hf, hu, hks0⟩, hks1, hiv, hmin, hmax, hivIn, hcap, hsrc, hdst, happart⟩,
    fun ⟨⟨_, hu, hks0⟩, hks1, hiv, hmin, hmax, hivIn, hcap, hsrc, hdst, happart⟩ =>
      ⟨⟨⟨hu, hks0⟩, hks1⟩, hiv, hmin, hmax, hcap, ⟨hivIn, hsrc, hdst⟩, happart⟩⟩

/-- The result of an XTS data command, by its cipher and the tweaks of the two blocks of the stealing. -/
def xtsResult (f first second : Block → Block) (s : State) : Bytes :=
  xtsSector f (xtsMul2 s.dialL) first second (xtsTweak s) (s.fetchAll .src)

theorem xts_delivers (hchecks : checksOf i s = xtsChecks s)
    (heffect : effectOf i s = s.deliver (xtsResult f first second s)) (hr : XtsReady s) : Delivers i s (xtsResult f first second s) := by
  have hf : s.fault = false := hr.1.1
  have hsrc : (s.fetchAll .src).length = s.srcLen.toNat := fetch_length ..
  have hmin : 16 ≤ s.srcLen.toNat := by
    obtain ⟨_, _, _, hmin, _⟩ := hr
    exact hmin
  refine delivers_of_pass hf ?_ heffect ((xtsSector_length _ _ _ _ _ (hsrc.symm ▸ hmin)).trans hsrc)
  rw [ChecksPass, hchecks]
  exact (xtsChecks_pass hf).mpr hr

/-- The tweak of block j of a sector (R182). -/
def xtsTweakAt (s : State) (j : Nat) : Block := (xtsMul2 s.dialL)^[j] (xtsTweak s)

theorem xtsTweakAt_succ (s : State) (j : Nat) : xtsTweakAt s (j + 1) = xtsMul2 s.dialL (xtsTweakAt s j) :=
  Function.iterate_succ_apply' ..

/-- t is where an XTS command leaves s: full blocks under their tweaks, and, where a partial block follows, the last full
block and it done by stealing under the two given tweaks. -/
structure SectorDone (f : Block → Block) (donorTweak filledTweak : Block) (s t : State) : Prop where
  frame : t = { s with mem := t.mem, err := none, outLen := s.srcLen }
  outside : SameOutside s.mem t.mem s.dstAddr.toNat s.srcLen.toNat
  block : ∀ j < (if s.srcLen.toNat % 16 = 0 then s.srcLen.toNat / 16 else s.srcLen.toNat / 16 - 1),
    dstBlock s t j = xtsBlock f (xtsTweakAt s j) (srcBlock s j)
  stolen : 0 < s.srcLen.toNat % 16 → ∃ donor filled : Block,
    donor = xtsBlock f donorTweak (srcBlock s (s.srcLen.toNat / 16 - 1))
    ∧ filled = blockOf (s.mem.readBytes (s.srcAddr.toNat + 16 * (s.srcLen.toNat / 16)) (s.srcLen.toNat % 16)
        ++ (bytesOf donor).drop (s.srcLen.toNat % 16))
    ∧ dstBlock s t (s.srcLen.toNat / 16 - 1) = xtsBlock f filledTweak filled
    ∧ t.mem.readBytes (s.dstAddr.toNat + 16 * (s.srcLen.toNat / 16)) (s.srcLen.toNat % 16)
        = (bytesOf donor).take (s.srcLen.toNat % 16)

/-- The full blocks of a sector that is whole blocks. -/
theorem block_of_whole_written (h0 : s.srcLen.toNat % 16 = 0)
    (hw : Written s.mem t.mem s.dstAddr.toNat (xtsResult f first second s)) {j : Nat} (hj : j < s.srcLen.toNat / 16) :
    dstBlock s t j = xtsBlock f (xtsTweakAt s j) (srcBlock s j) := by
  have hsrc : (s.fetchAll .src).length = s.srcLen.toNat := fetch_length ..
  rw [xtsResult, xtsSector_of_whole _ _ _ _ _ (hsrc.symm ▸ h0)] at hw
  refine block_of_written hw ?_ (by rw [bytesOfBlocks_length, xtsBlocks_length, blocksOf_length, hsrc]; omega)
  rw [blocksOf_bytesOfBlocks]
  exact xtsBlocks_getElem? _ _ _ (srcBlocks_getElem? hj)

/-- A sector with a partial block, in memory: k blocks, the last full one, and the partial one. -/
theorem fetchAll_src_parts {k b : Nat} (hn : s.srcLen.toNat = 16 * k + 16 + b) :
    s.fetchAll .src = s.mem.readBytes s.srcAddr.toNat (16 * k)
      ++ (bytesOf (srcBlock s k) ++ s.mem.readBytes (s.srcAddr.toNat + 16 * (k + 1)) b) := by
  rw [bytesOf_block, Nat.mul_succ, ← Nat.add_assoc, ← readBytes_append, ← readBytes_append, ← Nat.add_assoc, ← hn]
  rfl

/-- What a stealing leaves in memory, k blocks after the address written at. -/
theorem stolen_of_written {m m' : Memory} {a k : Nat} {head rest : Bytes} {donorTweak filledTweak last : Block}
    (hhead : head.length = 16 * k) (hrest : rest.length ≤ 16)
    (hw : Written m m' a (head ++ xtsStolen f donorTweak filledTweak last rest)) :
    m'.block (a + 16 * k) = xtsBlock f filledTweak (xtsFilled (xtsBlock f donorTweak last) rest)
      ∧ m'.readBytes (a + 16 * (k + 1)) rest.length = (bytesOf (xtsBlock f donorTweak last)).take rest.length := by
  have hstolen := readBytes_tag_of_written hw
  have hlen : (xtsStolen f donorTweak filledTweak last rest).length = 16 + rest.length := by
    rw [xtsStolen, List.length_append, bytesOf_length, List.length_take, bytesOf_length, Nat.min_eq_left hrest]
  rw [hlen, hhead, readBytes_append, xtsStolen] at hstolen
  obtain ⟨hfilled, hover⟩ := List.append_inj hstolen (by rw [length_readBytes, bytesOf_length])
  exact ⟨by rw [Memory.block, hfilled, blockOf_bytesOf], hover⟩

section
variable {k b : Nat}

theorem xtsResult_of_partial (hn : s.srcLen.toNat = 16 * k + 16 + b) (hpos : 0 < b) (hb : b < 16) :
    xtsResult f first second s
      = bytesOfBlocks (xtsBlocks f (xtsMul2 s.dialL) (xtsTweak s) (blocksOf (s.mem.readBytes s.srcAddr.toNat (16 * k))))
        ++ xtsStolen f (first (xtsTweakAt s k)) (second (xtsTweakAt s k)) (srcBlock s k)
          (s.mem.readBytes (s.srcAddr.toNat + 16 * (k + 1)) b) := by
  rw [xtsResult, fetchAll_src_parts hn]
  exact xtsSector_of_partial _ _ _ _ _ _ (length_readBytes ..) (by rwa [length_readBytes]) (by rwa [length_readBytes])

/-- The blocks before the stealing, where a partial block follows. -/
theorem block_of_partial_written (hn : s.srcLen.toNat = 16 * k + 16 + b) (hpos : 0 < b) (hb : b < 16)
    (hw : Written s.mem t.mem s.dstAddr.toNat (xtsResult f first second s)) {j : Nat} (hj : j < k) :
    dstBlock s t j = xtsBlock f (xtsTweakAt s j) (srcBlock s j) := by
  rw [xtsResult_of_partial hn hpos hb] at hw
  refine block_of_written hw ?_ (by simp; omega)
  rw [blocksOf_append (by simp), blocksOf_bytesOfBlocks, List.getElem?_append_left (by simp; omega)]
  exact xtsBlocks_getElem? _ _ _ (blocksOf_readBytes _ _ (by omega))

/-- The two blocks of the stealing. -/
theorem stolen_of_partial_written (hn : s.srcLen.toNat = 16 * k + 16 + b) (hpos : 0 < b) (hb : b < 16)
    (hw : Written s.mem t.mem s.dstAddr.toNat (xtsResult f first second s)) :
    dstBlock s t k = xtsBlock f (second (xtsTweakAt s k))
        (xtsFilled (xtsBlock f (first (xtsTweakAt s k)) (srcBlock s k))
          (s.mem.readBytes (s.srcAddr.toNat + 16 * (k + 1)) b))
      ∧ t.mem.readBytes (s.dstAddr.toNat + 16 * (k + 1)) b
        = (bytesOf (xtsBlock f (first (xtsTweakAt s k)) (srcBlock s k))).take b := by
  rw [xtsResult_of_partial hn hpos hb] at hw
  have hread := stolen_of_written (k := k) (by simp; omega) (by rw [length_readBytes]; exact hb.le) hw
  rwa [length_readBytes] at hread

end

/-- A data command of XTS, with its cipher and the tweaks of its stealing, completes. -/
theorem xtsResult_completes (h : Delivers i s (xtsResult f first second s)) (hwf : s.mem.wf) (hr : XtsReady s) :
    ∃ t, exec i s = .next t ∧ SectorDone f (first (xtsTweakAt s (s.srcLen.toNat / 16 - 1)))
      (second (xtsTweakAt s (s.srcLen.toNat / 16 - 1))) s t := by
  obtain ⟨t, hexec, hframe, houtside, hw⟩ := h.completes hwf
  obtain ⟨_, _, _, hmin, _⟩ := hr
  have hparts : s.srcLen.toNat = 16 * (s.srcLen.toNat / 16 - 1) + 16 + s.srcLen.toNat % 16 := by omega
  have hlt : s.srcLen.toNat % 16 < 16 := Nat.mod_lt _ (by decide)
  have hsucc : s.srcLen.toNat / 16 - 1 + 1 = s.srcLen.toNat / 16 := by omega
  refine ⟨t, hexec, hframe, houtside, fun j hj => ?block, fun hpos => ?stolen⟩
  case block =>
    split_ifs at hj with h0
    · exact block_of_whole_written h0 hw hj
    · exact block_of_partial_written hparts (Nat.pos_of_ne_zero h0) hlt hw hj
  case stolen =>
    obtain ⟨hfilled, hover⟩ := stolen_of_partial_written hparts hpos hlt hw
    rw [hsucc] at hfilled hover
    refine ⟨_, _, rfl, rfl, hfilled.trans ?_, hover⟩
    rw [xtsFilled, length_readBytes]

theorem xtsEnc_delivers (hr : XtsReady s) :
    Delivers .xtsEnc s (xtsResult (encryptBlock s.ks0) id (xtsMul2 s.dialL) s) := xts_delivers rfl rfl hr

theorem xtsDec_delivers (hr : XtsReady s) :
    Delivers .xtsDec s (xtsResult (decryptBlock s.ks0) (xtsMul2 s.dialL) id s) := xts_delivers rfl rfl hr

/-- Settles O45: ENC steals under T(m-1) and T(m), DEC under T(m) and T(m-1) (`xtsResult_completes`). -/
theorem xtsCommandsComplete : Obligations.XtsCommandsComplete := by
  intro s hwf hr n m b full T tail
  have hlast : xtsMul2 s.dialL (T (m - 1)) = T m := by
    obtain ⟨_, _, _, hmin, _⟩ := hr
    rw [← show m - 1 + 1 = m by omega]
    exact (xtsTweakAt_succ s (m - 1)).symm
  obtain ⟨t, hexec, hdone⟩ := xtsResult_completes (xtsEnc_delivers hr) hwf hr
  obtain ⟨t', hexec', hdone'⟩ := xtsResult_completes (xtsDec_delivers hr) hwf hr
  refine ⟨⟨t, hexec, hdone.frame, hdone.outside, hdone.block, ?stolenEnc⟩,
    t', hexec', hdone'.frame, hdone'.outside, hdone'.block, ?stolenDec⟩
  case stolenEnc => exact hlast ▸ hdone.stolen
  case stolenDec => exact hlast ▸ hdone'.stolen

end Sys2Proof.Machine
end

section
/-! SUPPORT. HCTR.ENC and HCTR.DEC complete (44_xts_hctr.md R193 to R195): both are one pass, with E or with D. -/

namespace Sys2Proof.Machine

/-! ## The pass -/

/-- The first block masked by the hash of the rest. -/
def hctrInner (p : List Elem) (tw : Block) (src : Bytes) : Block := blockOf (src.take 16) ^^^ uhash p tw (src.drop 16)

/-- The rest of the data, XORed with the counter mode keystream between the two inner blocks (R193). -/
def hctrRest (cipher : Block → Block) (ks : KeySchedule) (p : List Elem) (tw : Block) (src : Bytes) : Bytes :=
  hctrStream (encryptBlock ks) (hctrInner p tw src ^^^ cipher (hctrInner p tw src)) (src.drop 16)

/-- HCTR over at least 16 bytes, with the cipher between the two inner blocks (R194, R195). -/
def hctrPass (cipher : Block → Block) (ks : KeySchedule) (p : List Elem) (tw : Block) (src : Bytes) : Bytes :=
  bytesOf (cipher (hctrInner p tw src) ^^^ uhash p tw (hctrRest cipher ks p tw src)) ++ hctrRest cipher ks p tw src

theorem hctrEncrypt_eq (ks : KeySchedule) (p : List Elem) (tw : Block) (src : Bytes) :
    hctrEncrypt ks p tw src = hctrPass (encryptBlock ks) ks p tw src := rfl

/-- Decryption starts from the second inner block; the keystream is between the same two. -/
theorem hctrDecrypt_eq (ks : KeySchedule) (p : List Elem) (tw : Block) (src : Bytes) :
    hctrDecrypt ks p tw src = hctrPass (decryptBlock ks) ks p tw src := by
  rw [hctrPass, hctrRest, BitVec.xor_comm (hctrInner p tw src)]
  rfl

@[simp] theorem hctrRest_length (cipher : Block → Block) (ks : KeySchedule) (p : List Elem) (tw : Block) (src : Bytes) :
    (hctrRest cipher ks p tw src).length = src.length - 16 := by
  rw [hctrRest, hctrStream_length, List.length_drop]

theorem hctrPass_length (cipher : Block → Block) (ks : KeySchedule) (p : List Elem) (tw : Block) {src : Bytes}
    (h : 16 ≤ src.length) : (hctrPass cipher ks p tw src).length = src.length := by
  rw [hctrPass, List.length_append, bytesOf_length, hctrRest_length]
  omega

/-- Byte k of data under `HCtr` (R193). -/
theorem hctrStream_getElem? (f : Block → Block) (v : Block) (data : Bytes) (k : Nat) :
    (hctrStream f v data)[k]? = (data[k]?).map fun x => x ^^^ blockByte (f (hctrCounter v (k / 16 + 1))) (k % 16) :=
  indexedCtr_getElem? ..

/-! ## The commands -/

variable {i : Instr} {s t : State} {cipher : Block → Block}

/-- The checks of the HCTR data commands pass exactly where they may run (R194). -/
theorem hctrChecks_pass (hf : s.fault = false) : (∀ c ∈ hctrChecks s, c.fails = false) ↔ HctrReady s := by
  rw [hctrChecks, List.forall_mem_cons, List.forall_mem_cons, windowChecks_pass, seqCheck_fails, Bool.and_eq_true,
    Bool.and_eq_true, bound_iff, failIf_decide_fails, Nat.not_lt]
  exact ⟨fun ⟨⟨⟨hu, hks⟩, htbl⟩, hmin, hwin⟩ => ⟨⟨hf, hu, hks⟩, htbl, hmin, hwin⟩,
    fun ⟨⟨_, hu, hks⟩, htbl, hmin, hwin⟩ => ⟨⟨⟨hu, hks⟩, htbl⟩, hmin, hwin⟩⟩

theorem hctr_delivers (hchecks : checksOf i s = hctrChecks s)
    (heffect : effectOf i s = s.deliver (hctrPass cipher s.ks0 s.tbl s.iv (s.fetchAll .src))) (hr : HctrReady s) :
    Delivers i s (hctrPass cipher s.ks0 s.tbl s.iv (s.fetchAll .src)) := by
  have hf : s.fault = false := hr.1.1
  have hsrc : (s.fetchAll .src).length = s.srcLen.toNat := fetch_length ..
  have hmin : 16 ≤ s.srcLen.toNat := by
    obtain ⟨_, _, hmin, _⟩ := hr
    exact hmin
  refine delivers_of_pass hf ?_ heffect ((hctrPass_length _ _ _ _ (hsrc.symm ▸ hmin)).trans hsrc)
  rw [ChecksPass, hchecks]
  exact (hctrChecks_pass hf).mpr hr

theorem hctrEnc_delivers (hr : HctrReady s) :
    Delivers .hctrEnc s (hctrPass (encryptBlock s.ks0) s.ks0 s.tbl s.iv (s.fetchAll .src)) :=
  hctr_delivers rfl (by rw [← hctrEncrypt_eq]; rfl) hr

theorem hctrDec_delivers (hr : HctrReady s) :
    Delivers .hctrDec s (hctrPass (decryptBlock s.ks0) s.ks0 s.tbl s.iv (s.fetchAll .src)) :=
  hctr_delivers rfl (by rw [← hctrDecrypt_eq]; rfl) hr

/-- The rest of src. -/
abbrev hctrSrcRest (s : State) : Bytes := s.mem.readBytes (s.srcAddr.toNat + 16) (s.srcLen.toNat - 16)

/-- The first inner block of a command: the first block of src masked by the hash of the rest. -/
abbrev hctrMasked (s : State) : Block := srcBlock s 0 ^^^ uhash s.tbl s.iv (hctrSrcRest s)

theorem drop_fetchAll_src (s : State) : (s.fetchAll .src).drop 16 = hctrSrcRest s := drop_readBytes ..

theorem hctrInner_src (hmin : 16 ≤ s.srcLen.toNat) : hctrInner s.tbl s.iv (s.fetchAll .src) = hctrMasked s := by
  have hfirst : blockOf ((s.fetchAll .src).take 16) = srcBlock s 0 :=
    (blockOf_take _).trans (blockOf_readBytes _ _ hmin)
  rw [hctrInner, hfirst, drop_fetchAll_src]

/-- A data command of HCTR, with its cipher, completes. -/
theorem hctrPass_completes (h : Delivers i s (hctrPass cipher s.ks0 s.tbl s.iv (s.fetchAll .src))) (hwf : s.mem.wf)
    (hmin : 16 ≤ s.srcLen.toNat) :
    ∃ t, exec i s = .next t ∧ t = { s with mem := t.mem, err := none, outLen := s.srcLen }
      ∧ SameOutside s.mem t.mem s.dstAddr.toNat s.srcLen.toNat
      ∧ (∀ k < s.srcLen.toNat - 16, t.mem.read (s.dstAddr.toNat + 16 + k) = s.mem.read (s.srcAddr.toNat + 16 + k)
          ^^^ blockByte (encryptBlock s.ks0 (hctrCounter (hctrMasked s ^^^ cipher (hctrMasked s)) (k / 16 + 1))) (k % 16))
      ∧ dstBlock s t 0 = cipher (hctrMasked s)
          ^^^ uhash s.tbl s.iv (t.mem.readBytes (s.dstAddr.toNat + 16) (s.srcLen.toNat - 16)) := by
  obtain ⟨t, hexec, hframe, houtside, hw⟩ := h.completes hwf
  have hsrc : (s.fetchAll .src).length = s.srcLen.toNat := fetch_length ..
  have hfirst := readBytes_body_of_written hw
  have hrest := readBytes_tag_of_written hw
  rw [bytesOf_length, hctrRest_length, hsrc] at hrest
  rw [bytesOf_length, ← hrest, hctrInner_src hmin] at hfirst
  refine ⟨t, hexec, hframe, houtside, fun k hk => ?_, ?_⟩
  · rw [← getD_readBytes _ _ hk, hrest, hctrRest, hctrInner_src hmin, drop_fetchAll_src, List.getD, hctrStream_getElem?,
      getElem?_readBytes, if_pos hk]
    rfl
  · exact (congrArg blockOf hfirst).trans (blockOf_bytesOf _)

/-- Settles O47: both commands are the pass (`hctrPass_completes`), and in DEC the inner blocks are found in the other
order. -/
theorem hctrCommandsComplete : Obligations.HctrCommandsComplete := by
  intro s hwf hr n U srcRest counter
  have hmin : 16 ≤ s.srcLen.toNat := by
    obtain ⟨_, _, hmin, _⟩ := hr
    exact hmin
  obtain ⟨t, hexec, hframe, houtside, hrest, hfirst⟩ := hctrPass_completes (hctrEnc_delivers hr) hwf hmin
  obtain ⟨t', hexec', hframe', houtside', hrest', hfirst'⟩ := hctrPass_completes (hctrDec_delivers hr) hwf hmin
  rw [BitVec.xor_comm (hctrMasked s)] at hrest'
  exact ⟨⟨t, _, _, hexec, hframe, houtside, rfl, rfl, hrest, hfirst⟩,
    t', _, _, hexec', hframe', houtside', rfl, rfl, hrest', hfirst'⟩

end Sys2Proof.Machine
end

section
/-! SUPPORT. In XTS and HCTR the two directions undo each other (44_xts_hctr.md R186, R195). -/

namespace Sys2Proof.Machine

/-! ## XTS (R186) -/

section
variable {f g : Block → Block}

theorem xtsBlock_xtsBlock (hgf : ∀ x, g (f x) = x) (tweak x : Block) : xtsBlock g tweak (xtsBlock f tweak x) = x := by
  rw [xtsBlock, xtsBlock, xor_cancel_right, hgf, xor_cancel_right]

theorem xtsStep_undoes (hgf : ∀ x, g (f x) = x) (mul2 : Block → Block) : Undoes (xtsStep g mul2) (xtsStep f mul2) :=
  fun tweak b => by rw [xtsStep, xtsStep, xtsBlock_xtsBlock hgf]

theorem xtsBlocks_xtsBlocks (hgf : ∀ x, g (f x) = x) (mul2 : Block → Block) (tweak : Block) (bs : List Block) :
    xtsBlocks g mul2 tweak (xtsBlocks f mul2 tweak bs) = bs := by
  rw [xtsBlocks, xtsBlocks, chain_undoes (xtsStep_undoes hgf mul2)]

/-- The filled block starts with the partial block's bytes and ends with the donor's. -/
theorem bytesOf_xtsFilled (donor : Block) {rest : Bytes} (h : rest.length ≤ 16) :
    bytesOf (xtsFilled donor rest) = rest ++ (bytesOf donor).drop rest.length :=
  bytesOf_blockOf (by rw [List.length_append, List.length_drop, bytesOf_length]; omega)

/-- The donor, from its leading bytes and the filled block. -/
theorem xtsFilled_xtsFilled (donor : Block) {rest : Bytes} (h : rest.length ≤ 16) :
    xtsFilled (xtsFilled donor rest) ((bytesOf donor).take rest.length) = donor := by
  have hlen : ((bytesOf donor).take rest.length).length = rest.length := by
    rw [List.length_take, bytesOf_length, Nat.min_eq_left h]
  rw [xtsFilled, hlen, bytesOf_xtsFilled donor h, List.drop_left' rfl, List.take_append_drop, blockOf_bytesOf]

/-- Stealing back, the two tweaks changed over: the filled block and the donor come out in turn. -/
theorem xtsStolen_xtsStolen (hgf : ∀ x, g (f x) = x) (t1 t2 last : Block) {rest : Bytes} (h : rest.length ≤ 16) :
    xtsStolen g t2 t1 (xtsBlock f t2 (xtsFilled (xtsBlock f t1 last) rest))
      ((bytesOf (xtsBlock f t1 last)).take rest.length) = bytesOf last ++ rest := by
  have hlen : ((bytesOf (xtsBlock f t1 last)).take rest.length).length = rest.length := by
    rw [List.length_take, bytesOf_length, Nat.min_eq_left h]
  rw [xtsStolen, xtsBlock_xtsBlock hgf, xtsFilled_xtsFilled _ h, xtsBlock_xtsBlock hgf, hlen, bytesOf_xtsFilled _ h,
    List.take_left' rfl]

/-- A sector done with the inverse cipher, the two tweaks of the stealing changed over, gives the sector back. -/
theorem xtsSector_xtsSector (hgf : ∀ x, g (f x) = x) (mul2 first second : Block → Block) (tweak : Block) {src : Bytes}
    (hmin : 16 ≤ src.length) : xtsSector g mul2 second first tweak (xtsSector f mul2 first second tweak src) = src := by
  by_cases h0 : src.length % 16 = 0
  · rw [xtsSector_of_whole f _ _ _ _ h0,
      xtsSector_of_whole g _ _ _ _ (by rw [bytesOfBlocks_length, Nat.mul_mod_right]), blocksOf_bytesOfBlocks,
      xtsBlocks_xtsBlocks hgf, bytesOfBlocks_blocksOf h0]
  · obtain ⟨k, hk⟩ : ∃ k, src.length / 16 = k + 1 := ⟨src.length / 16 - 1, by omega⟩
    have hbody : (src.take (16 * k)).length = 16 * k := by rw [List.length_take]; omega
    have hrest : (src.drop (16 * k + 16)).length = src.length % 16 := by rw [List.length_drop]; omega
    have hlt : src.length % 16 < 16 := Nat.mod_lt _ (by decide)
    have hblocks : (bytesOfBlocks (xtsBlocks f mul2 tweak (blocksOf (src.take (16 * k))))).length = 16 * k := by
      rw [bytesOfBlocks_length, xtsBlocks_length, blocksOf_length, hbody]; omega
    rw [← append_block_append_rest (src := src) (k := k) (by omega)]
    generalize src.take (16 * k) = body at *
    generalize src.drop (16 * k + 16) = rest at *
    generalize blockOf (src.drop (16 * k)) = last
    rw [xtsSector_of_partial f mul2 first second tweak last hbody (by omega) (by omega), xtsStolen,
      xtsSector_of_partial g mul2 second first tweak _ hblocks (by simp; omega) (by simp; omega),
      blocksOf_bytesOfBlocks, xtsBlocks_xtsBlocks hgf, bytesOfBlocks_blocksOf (by rw [hbody, Nat.mul_mod_right]),
      xtsStolen_xtsStolen hgf _ _ _ (by omega)]

end

/-! ## HCTR (R195) -/

section
variable {f g : Block → Block} (ks : KeySchedule) (p : List Elem) (tw : Block) (src : Bytes)

/-- The first inner block of the way back is the second one of the way there. -/
theorem hctrInner_hctrPass : hctrInner p tw (hctrPass f ks p tw src) = f (hctrInner p tw src) := by
  rw [hctrInner, hctrPass, List.take_left' (bytesOf_length _), List.drop_left' (bytesOf_length _), blockOf_bytesOf,
    xor_cancel_right]

/-- The keystream is the same, being made of the two inner blocks in either order. -/
theorem hctrRest_hctrPass (hgf : ∀ x, g (f x) = x) : hctrRest g ks p tw (hctrPass f ks p tw src) = src.drop 16 := by
  rw [hctrRest, hctrInner_hctrPass, hgf, BitVec.xor_comm, hctrPass, List.drop_left' (bytesOf_length _), hctrRest,
    hctrStream, hctrStream, indexedCtr_indexedCtr]

theorem hctrPass_hctrPass (hgf : ∀ x, g (f x) = x) (hmin : 16 ≤ src.length) :
    hctrPass g ks p tw (hctrPass f ks p tw src) = src := by
  rw [hctrPass, hctrRest_hctrPass _ _ _ _ hgf, hctrInner_hctrPass, hgf, hctrInner, xor_cancel_right,
    bytesOf_blockOf (by rw [List.length_take, Nat.min_eq_left hmin]), List.take_append_drop]

end

/-! ## The statement -/

/-- Settles O58: what one direction delivers the other takes back (`Delivers.round_trip`), for a sector by
`xtsSector_xtsSector` and for HCTR by `hctrPass_hctrPass`. -/
theorem xtsAndHctrRoundTrips : Obligations.XtsAndHctrRoundTrips := by
  intro e d key s t v hwf hwfv hks hksv hexec hlen hsrc
  have hsrcLen : (s.fetchAll .src).length = s.srcLen.toNat := fetch_length ..
  have hencDec (x : Block) : decryptBlock s.ks0 (encryptBlock s.ks0 x) = x := by rw [hks, decryptBlock_encryptBlock]
  have hdecEnc (x : Block) : encryptBlock s.ks0 (decryptBlock s.ks0 x) = x := by rw [hks, encryptBlock_decryptBlock]
  refine ⟨fun hi hr hrv hks1 hdial htweak => ?xts, fun hi hr hrv htbl hiv => ?hctr⟩
  case xts =>
    have hmin : 16 ≤ (s.fetchAll .src).length := by
      obtain ⟨_, _, _, hmin, _⟩ := hr
      exact hsrcLen.symm ▸ hmin
    have htweak0 : xtsTweak v = xtsTweak s := by
      rw [xtsTweak, xtsTweak, hks1]
      exact congrArg _ htweak
    simp only [List.mem_cons, Prod.mk.injEq, List.not_mem_nil, or_false] at hi
    rcases hi with ⟨rfl, rfl⟩ | ⟨rfl, rfl⟩
    · refine (xtsEnc_delivers hr).round_trip (xtsDec_delivers hrv) ?_ hwf hwfv hexec hlen hsrc
      rw [hksv, hdial, htweak0]
      exact xtsSector_xtsSector hencDec _ _ _ _ hmin
    · refine (xtsDec_delivers hr).round_trip (xtsEnc_delivers hrv) ?_ hwf hwfv hexec hlen hsrc
      rw [hksv, hdial, htweak0]
      exact xtsSector_xtsSector hdecEnc _ _ _ _ hmin
  case hctr =>
    have hmin : 16 ≤ (s.fetchAll .src).length := by
      obtain ⟨_, _, hmin, _⟩ := hr
      exact hsrcLen.symm ▸ hmin
    simp only [List.mem_cons, Prod.mk.injEq, List.not_mem_nil, or_false] at hi
    rcases hi with ⟨rfl, rfl⟩ | ⟨rfl, rfl⟩
    · refine (hctrEnc_delivers hr).round_trip (hctrDec_delivers hrv) ?_ hwf hwfv hexec hlen hsrc
      rw [hksv, htbl, hiv]
      exact hctrPass_hctrPass _ _ _ _ hencDec hmin
    · refine (hctrDec_delivers hr).round_trip (hctrEnc_delivers hrv) ?_ hwf hwfv hexec hlen hsrc
      rw [hksv, htbl, hiv]
      exact hctrPass_hctrPass _ _ _ _ hdecEnc hmin

end Sys2Proof.Machine
end

section
/-! SUPPORT. How the AEAD commands end in memory: a body and a tag after it, a plaintext alone, or zeros
(42_gcm.md R129, R130, R132). -/

namespace Sys2Proof.Machine

variable {s : State}

/-- A delivered result of n bytes changes dst, ERR and OUT_LEN only (20_memory.md R49). -/
theorem deliver_writes (hwf : s.mem.wf) {out : Bytes} {n : Nat} (hout : out.length = n) :
    s.deliver out = { s with mem := (s.deliver out).mem, err := none, outLen := BitVec.ofNat 64 n }
      ∧ Written s.mem (s.deliver out).mem s.dstAddr.toNat out :=
  ⟨by rw [deliver_eq, hout], written_writeBytes hwf ..⟩

/-- An authentication failure changes dst, ERR and OUT_LEN only: E_AUTH is of class R (R132). -/
theorem authFailure_writes (hwf : s.mem.wf) (n : Nat) :
    s.authFailure n = { s with mem := (s.authFailure n).mem, err := some .auth, outLen := 0 }
      ∧ Written s.mem (s.authFailure n).mem s.dstAddr.toNat (zeros n) :=
  ⟨by rw [authFailure_eq, Bool.or_false], written_writeBytes hwf ..⟩

/-- A delivered ciphertext of n bytes with its tag of t bytes: both read back, and n + t bytes at dst change (R129). -/
theorem deliver_sealed (hwf : s.mem.wf) {body tag : Bytes} {n t : Nat} (hbody : body.length = n)
    (htag : tag.length = t) :
    s.deliver (body ++ tag)
        = { s with mem := (s.deliver (body ++ tag)).mem, err := none, outLen := BitVec.ofNat 64 (n + t) }
      ∧ SameOutside s.mem (s.deliver (body ++ tag)).mem s.dstAddr.toNat (n + t)
      ∧ (s.deliver (body ++ tag)).mem.readBytes s.dstAddr.toNat n = body
      ∧ (s.deliver (body ++ tag)).mem.readBytes (s.dstAddr.toNat + n) t = tag := by
  subst hbody htag
  obtain ⟨hframe, hwritten⟩ := deliver_writes hwf (List.length_append (as := body) (bs := tag))
  have houtside := hwritten.1
  rw [List.length_append] at houtside
  exact ⟨hframe, houtside, readBytes_body_of_written hwritten, readBytes_tag_of_written hwritten⟩

/-- A byte string is a given one of n bytes where it has that length and those bytes. -/
theorem eq_iff_getD {a b : Bytes} {n : Nat} (hb : b.length = n) :
    a = b ↔ a.length = n ∧ ∀ j < n, a.getD j 0 = b.getD j 0 := by
  subst hb
  refine ⟨fun h => ⟨congrArg _ h, fun _ _ => by rw [h]⟩, fun ⟨hlen, h⟩ => List.ext_getElem hlen fun j hja hjb => ?_⟩
  rw [← List.getD_eq_getElem a 0 hja, ← List.getD_eq_getElem b 0 hjb, h j hjb]

end Sys2Proof.Machine
end

section
/-! SUPPORT. The blocks CCM authenticates: B0 and the formatted associated data (45_ccm_gxm_mur.md R204, R205). -/

namespace Sys2Proof.Machine

/-! ## Zero padding (R205) -/

theorem zeroPad16_eq (bs : Bytes) : ∃ k < 16, zeroPad16 bs = bs ++ zeros k := ⟨_, Nat.mod_lt _ (by decide), rfl⟩

theorem zeroPad16_length (bs : Bytes) : (zeroPad16 bs).length = 16 * ((bs.length + 15) / 16) := by
  rw [zeroPad16, List.length_append, zeros_length]
  omega

/-! ## B0 (R204) -/

/-- The first byte of B0. -/
def ccmFlags (m : Nat) (nonce aad : Bytes) : Byte :=
  BitVec.ofNat 8 ((if aad.length > 0 then 64 else 0) + 8 * ((m - 2) / 2) + (15 - nonce.length - 1))

theorem ccmB0_eq (m : Nat) (nonce aad : Bytes) (n : Nat) :
    ccmB0 m nonce aad n = [ccmFlags m nonce aad] ++ nonce ++ be (15 - nonce.length) n := rfl

theorem ccmB0_length (m : Nat) {nonce : Bytes} (aad : Bytes) (n : Nat) (h : nonce.length ≤ 15) :
    (ccmB0 m nonce aad n).length = 16 := by
  rw [ccmB0_eq, List.length_append, List.length_append, be_length, List.length_singleton]
  omega

/-- The four fields of a flags byte: one bit, two fields of three bits, and a zero above them. -/
theorem flagsByte_fields (withAad : Bool) (tagField lengthField : Fin 8) :
    let flags := BitVec.ofNat 8 ((if withAad then 64 else 0) + 8 * tagField.val + lengthField.val)
    flags.getLsbD 6 = withAad ∧ (flags.extractLsb' 3 3).toNat = tagField.val
      ∧ (flags.extractLsb' 0 3).toNat = lengthField.val ∧ flags.getLsbD 7 = false := by
  revert withAad tagField lengthField
  decide

theorem ccmFlags_fields {m : Nat} {nonce : Bytes} (aad : Bytes) (hm : m ≤ 16) (hnonce : 7 ≤ nonce.length) :
    (ccmFlags m nonce aad).getLsbD 6 = decide (0 < aad.length)
      ∧ ((ccmFlags m nonce aad).extractLsb' 3 3).toNat = (m - 2) / 2
      ∧ ((ccmFlags m nonce aad).extractLsb' 0 3).toNat = 14 - nonce.length
      ∧ (ccmFlags m nonce aad).getLsbD 7 = false := by
  have hfields := flagsByte_fields (decide (0 < aad.length)) ⟨(m - 2) / 2, by omega⟩ ⟨14 - nonce.length, by omega⟩
  rw [ccmFlags, show 15 - nonce.length - 1 = 14 - nonce.length by omega]
  simpa only [decide_eq_true_eq] using hfields

/-! ## The formatted associated data (R205) -/

variable {aad : Bytes}

theorem ccmFormatAad_of_empty (h : aad.length = 0) : ccmFormatAad aad = [] := if_pos h

theorem ccmFormatAad_of_lt (hpos : 0 < aad.length) (h : aad.length < 65280) :
    ccmFormatAad aad = zeroPad16 (be 2 aad.length ++ aad) := by
  rw [ccmFormatAad, if_neg (by omega), if_pos h]

theorem ccmFormatAad_of_lt_two_pow (hmin : 65280 ≤ aad.length) (h : aad.length < 2 ^ 32) :
    ccmFormatAad aad = zeroPad16 ([0xFF, 0xFE] ++ be 4 aad.length ++ aad) := by
  rw [ccmFormatAad, if_neg (by omega), if_neg (by omega), if_pos h]

theorem ccmFormatAad_of_two_pow_le (h : 2 ^ 32 ≤ aad.length) :
    ccmFormatAad aad = zeroPad16 ([0xFF, 0xFF] ++ be 8 aad.length ++ aad) := by
  rw [ccmFormatAad, if_neg (by omega), if_neg (by omega), if_neg (by omega)]

/-- The formatted associated data are whole blocks: nothing, or a zero-padded string. -/
theorem ccmFormatAad_length_mod (aad : Bytes) : (ccmFormatAad aad).length % 16 = 0 := by
  have hpadded (bs : Bytes) : (zeroPad16 bs).length % 16 = 0 := by rw [zeroPad16_length, Nat.mul_mod_right]
  unfold ccmFormatAad
  split_ifs
  · rfl
  · exact hpadded _
  · exact hpadded _
  · exact hpadded _

/-- Settles O53: B0 by its parts (`ccmB0_eq`), its flags by their fields (`ccmFlags_fields`), and the formatted data by
the range its length is in. -/
theorem ccmFormatting : Obligations.CcmFormatting := by
  refine ⟨fun m nonce aad n hm hmin hmax => ?b0, fun aad => ⟨ccmFormatAad_length_mod aad, ccmFormatAad_of_empty,
    fun hpos h => ?short, fun hmin h => ?medium, fun h => ?long⟩⟩
  case b0 =>
    have hm16 : m ≤ 16 := by
      simp only [List.mem_cons, List.not_mem_nil, or_false] at hm
      omega
    refine ⟨ccmB0_length m aad n (by omega), ⟨ccmFlags m nonce aad, rfl, ccmFlags_fields aad hm16 hmin⟩, ?_, ?_⟩
    · rw [ccmB0_eq, List.append_assoc, List.singleton_append, List.drop_one, List.tail_cons, List.take_left' rfl]
    · rw [ccmB0_eq, List.drop_left' (by rw [List.length_append, List.length_singleton])]
  case short => exact ccmFormatAad_of_lt hpos h ▸ zeroPad16_eq _
  case medium => exact ccmFormatAad_of_lt_two_pow hmin h ▸ zeroPad16_eq _
  case long => exact ccmFormatAad_of_two_pow_le h ▸ zeroPad16_eq _

end Sys2Proof.Machine
end

section
/-! SUPPORT. CCM.SEAL and CCM.OPEN complete (45_ccm_gxm_mur.md R206 to R210). -/

namespace Sys2Proof.Machine

/-! ## The CBC-MAC register (R209) -/

section
variable (f : Block → Block)

/-- The CBC-MAC register after the first i blocks. -/
def cbcMacRegister (bs : List Block) (i : Nat) : Block := (bs.take i).foldl (fun x b => f (x ^^^ b)) 0

theorem cbcMacRegister_succ {bs : List Block} {i : Nat} {b : Block} (h : bs[i]? = some b) :
    cbcMacRegister f bs (i + 1) = f (cbcMacRegister f bs i ^^^ b) := by
  rw [cbcMacRegister, List.take_add_one, h, Option.toList_some, List.foldl_append]
  rfl

/-- The register's start and step determine it as long as there are blocks. -/
theorem eq_cbcMacRegister {bs : List Block} {X : Nat → Block} (hzero : X 0 = 0)
    (hsucc : ∀ i b, bs[i]? = some b → X (i + 1) = f (X i ^^^ b)) {i : Nat} (hi : i ≤ bs.length) :
    X i = cbcMacRegister f bs i := by
  induction i with
  | zero => exact hzero
  | succ i ih =>
    have hb : bs[i]? = some bs[i] := List.getElem?_eq_getElem hi
    rw [hsucc i _ hb, ih (Nat.le_of_succ_le hi), cbcMacRegister_succ f hb]

/-- The blocks CCM authenticates. -/
def ccmBlocks (m : Nat) (nonce aad pt : Bytes) : List Block :=
  blocksOf (ccmB0 m nonce aad pt.length ++ ccmFormatAad aad ++ zeroPad16 pt)

theorem ccmBlocks_length (m : Nat) {nonce : Bytes} (aad pt : Bytes) (h : nonce.length ≤ 15) :
    (ccmBlocks m nonce aad pt).length = 1 + (ccmFormatAad aad).length / 16 + (pt.length + 15) / 16 := by
  have haad := ccmFormatAad_length_mod aad
  rw [ccmBlocks, blocksOf_length, List.length_append, List.length_append, ccmB0_length _ _ _ h, zeroPad16_length]
  omega

theorem ccmMac_eq (m : Nat) {nonce : Bytes} (aad pt : Bytes) (h : nonce.length ≤ 15) :
    ccmMac f m nonce aad pt = cbcMacRegister f (ccmBlocks m nonce aad pt)
      (1 + (ccmFormatAad aad).length / 16 + (pt.length + 15) / 16) := by
  rw [← ccmBlocks_length m aad pt h, cbcMacRegister, List.take_length]
  rfl

/-- The tag as the statement has it: the leading bytes of the last value of some register that steps through the blocks,
masked (R207). -/
theorem eq_ccmTag_iff (m : Nat) {nonce : Bytes} (aad pt T : Bytes) (h : nonce.length ≤ 15) :
    (∃ X : Nat → Block, X 0 = 0 ∧ (∀ i b, (ccmBlocks m nonce aad pt)[i]? = some b → X (i + 1) = f (X i ^^^ b))
        ∧ T = (bytesOf (X (1 + (ccmFormatAad aad).length / 16 + (pt.length + 15) / 16)
          ^^^ f (ccmCounter nonce 0))).take m)
      ↔ T = ccmTag f m nonce aad pt := by
  rw [ccmTag, ccmMac_eq f m aad pt h]
  refine ⟨fun ⟨X, hzero, hsucc, hT⟩ => ?_, fun hT => ⟨_, rfl, fun _ _ => cbcMacRegister_succ f, hT⟩⟩
  rw [hT, eq_cbcMacRegister f hzero hsucc (ccmBlocks_length m aad pt h).ge]

end

/-! ## What CCM computes from its operands -/

variable {s : State}

/-- The counter mode pass of the command over a string (R206). -/
def ccmCommandCtr (s : State) (data : Bytes) : Bytes := ccmCtr (encryptBlock s.ks0) (ivBytes s) data

/-- The tag of the command over a plaintext (R207). -/
def ccmCommandTag (s : State) (pt : Bytes) : Bytes := ccmTag (encryptBlock s.ks0) s.tagLen (ivBytes s) (aadBytes s) pt

@[simp] theorem ccmCommandCtr_length (s : State) (data : Bytes) : (ccmCommandCtr s data).length = data.length :=
  indexedCtr_length ..

/-- Byte k of src under the pass: block k / 16 uses counter block k / 16 + 1. -/
theorem ccmCommandCtr_getD {n k : Nat} (hk : k < n) :
    (ccmCommandCtr s (srcBytes s n)).getD k 0
      = srcByte s k ^^^ blockByte (encryptBlock s.ks0 (ccmCounter (ivBytes s) (k / 16 + 1))) (k % 16) := by
  rw [List.getD, ccmCommandCtr, ccmCtr, indexedCtr_getElem?, getElem?_readBytes, if_pos hk]
  rfl

theorem ccmCounter_ivBytes (s : State) (i : Nat) :
    ccmCounter (ivBytes s) i
      = blockOf ([BitVec.ofNat 8 (15 - s.ivLen.toNat - 1)] ++ ivBytes s ++ be (15 - s.ivLen.toNat) i) := by
  rw [ccmCounter, length_readBytes]
  rfl

/-! ## How the commands end -/

theorem ccmSeal_ends (hready : CcmReady s s.srcLen.toNat) (hwin : SealWindows s) :
    exec .ccmSeal s = .next (s.deliver (ccmCommandCtr s (srcBytes s s.srcLen.toNat)
      ++ ccmCommandTag s (srcBytes s s.srcLen.toNat))) := by
  have hf : s.fault = false := hready.1.1
  exact exec_of_pass hf ((ccmSeal_pass hf).mpr ⟨hready, hwin⟩)

theorem ccmOpen_ends (hready : CcmReady s (openLen s)) (hwin : OpenWindows s) :
    exec .ccmOpen s = .next (ccmOpenEffect s) := by
  have hf : s.fault = false := hready.1.1
  exact exec_of_pass hf ((ccmOpen_pass hf).mpr ⟨hready, hwin⟩)

theorem ccmOpenEffect_verified (htag : ccmCommandTag s (ccmOpenBody s) = receivedTag s) :
    ccmOpenEffect s = s.deliver (ccmOpenBody s) :=
  if_pos htag

theorem ccmOpenEffect_rejected (htag : ccmCommandTag s (ccmOpenBody s) ≠ receivedTag s) :
    ccmOpenEffect s = s.authFailure (openLen s) :=
  if_neg htag

theorem ccmOpenBody_eq (s : State) : ccmOpenBody s = ccmCommandCtr s (srcBytes s (openLen s)) := rfl

/-! ## The statement -/

/-- Settles O52: a tag in the statement's sense is the computed one (`eq_ccmTag_iff`); SEAL delivers the counter mode
body and the tag over src, and OPEN recovers the one plaintext with the bytes the statement names and compares the
tag over it. -/
theorem ccmCommandsComplete : Obligations.CcmCommandsComplete := by
  intro s hwf n t L counter keyByte IsTag
  have hcounter : ccmCounter (ivBytes s) = counter := funext (ccmCounter_ivBytes s)
  have hIsTag (hiv : s.ivLen.toNat ≤ 13) (pt T : Bytes) : IsTag pt T ↔ T = ccmCommandTag s pt := by
    have hlen : (ivBytes s).length ≤ 15 := by rw [length_readBytes]; omega
    have htag := eq_ccmTag_iff (encryptBlock s.ks0) t (aadBytes s) pt T hlen
    rw [hcounter] at htag
    exact htag
  have hbyte {m k : Nat} (hk : k < m) : (ccmCommandCtr s (srcBytes s m)).getD k 0 = srcByte s k ^^^ keyByte k := by
    rw [ccmCommandCtr_getD hk, hcounter]
  refine ⟨fun ht hiv hready hwin => ?sealed, fun hiv hready hwin pt hpt hptBytes => ?opened⟩
  case sealed =>
    have hbody : (ccmCommandCtr s (srcBytes s n)).length = n := by rw [ccmCommandCtr_length, length_readBytes]
    have htag : (ccmCommandTag s (srcBytes s n)).length = t := ccmTag_length _ _ _ _ ht
    obtain ⟨hframe, houtside, hreadBody, hreadTag⟩ := deliver_sealed hwf hbody htag
    refine ⟨_, ccmSeal_ends hready hwin, hframe, houtside, fun k hk => ?_, (hIsTag hiv _ _).mpr hreadTag⟩
    rw [← getD_readBytes _ _ hk, hreadBody, hbyte hk]
  case opened =>
    have hbody : pt = ccmOpenBody s := by
      have hlen : (ccmOpenBody s).length = openLen s := by rw [ccmOpenBody_eq, ccmCommandCtr_length, length_readBytes]
      refine (eq_iff_getD hlen).mpr ⟨hpt, fun k hk => ?_⟩
      rw [hptBytes k hk, ccmOpenBody_eq, hbyte hk]
    have hverify : IsTag pt (receivedTag s) ↔ ccmCommandTag s (ccmOpenBody s) = receivedTag s := by
      rw [hIsTag hiv, ← hbody, eq_comm]
    refine ⟨fun htag => ?verified, fun htag => ?rejected⟩
    case verified =>
      refine ⟨_, (ccmOpen_ends hready hwin).trans (congrArg _ (ccmOpenEffect_verified (hverify.mp htag))), ?_⟩
      rw [← hbody]
      exact deliver_writes hwf hpt
    case rejected =>
      exact ⟨_, (ccmOpen_ends hready hwin).trans (congrArg _ (ccmOpenEffect_rejected (mt hverify.mpr htag))),
        authFailure_writes hwf _⟩

end Sys2Proof.Machine
end

section
/-! SUPPORT. GXM.SEAL and GXM.OPEN complete (45_ccm_gxm_mur.md R213 to R215). -/

namespace Sys2Proof.Machine

/-! ## What GXM computes from its operands -/

variable {s : State}

theorem takenBytes_length (s : State) (k : Nat) : (takenBytes s k).length = k := keystream_length ..

/-- Byte j of a Take is byte SPOS + j of the stream (R213; log 14). -/
theorem takenBytes_getD {k j : Nat} (hj : j < k) : (takenBytes s k).getD j 0 = Config.gxmKs (s.spos.toNat + j) := by
  rw [List.getD, takenBytes, keystream_getElem?, if_pos hj]
  rfl

/-- The tag of the command over a ciphertext (R214). -/
def gxmCommandTag (s : State) (ct : Bytes) : Bytes :=
  gxmTag s.tbl s.tagLen (aadBytes s) ct (takenBytes s s.tagLen)

theorem gxmCommandTag_length (ht : s.tagLenL.toNat ≤ 16) (ct : Bytes) :
    (gxmCommandTag s ct).length = s.tagLenL.toNat :=
  gxmTag_length _ _ _ _ ht (takenBytes_length ..)

/-- Byte j of the tag is masked with byte j of the mask, which is first in the stream. -/
theorem gxmCommandTag_getD (ht : s.tagLenL.toNat ≤ 16) (ct : Bytes) {j : Nat} (hj : j < s.tagLenL.toNat) :
    (gxmCommandTag s ct).getD j 0
      = blockByte (ghash s.tbl (aadBytes s) ct) j ^^^ Config.gxmKs (s.spos.toNat + j) := by
  have hlen : ((bytesOf (ghash s.tbl (aadBytes s) ct)).take s.tagLen).length = (takenBytes s s.tagLen).length := by
    rw [List.length_take, bytesOf_length, takenBytes_length]
    exact Nat.min_eq_left ht
  rw [gxmCommandTag, gxmTag, xorBytes_getD hlen]
  have hhash : ((bytesOf (ghash s.tbl (aadBytes s) ct)).take s.tagLen).getD j 0
      = blockByte (ghash s.tbl (aadBytes s) ct) j := by
    rw [State.tagLen, List.getD, List.getElem?_take_of_lt hj, getElem?_bytesOf (Nat.lt_of_lt_of_le hj ht),
      Option.getD_some]
  exact congrArg₂ (· ^^^ ·) hhash (takenBytes_getD hj)

/-- src XORed with the data keystream, which follows the mask (R214, R215). -/
def gxmCommandXor (s : State) (n : Nat) : Bytes := xorBytes (srcBytes s n) (takenBytes (s.afterTake s.tagLen) n)

@[simp] theorem gxmCommandXor_length (s : State) (n : Nat) : (gxmCommandXor s n).length = n := by
  rw [gxmCommandXor, xorBytes_length, length_readBytes, takenBytes_length, Nat.min_self]

theorem gxmCommandXor_getD {n k : Nat} (hk : k < n) :
    (gxmCommandXor s n).getD k 0
      = srcByte s k ^^^ Config.gxmKs ((s.spos + BitVec.ofNat 64 s.tagLenL.toNat).toNat + k) := by
  have hlen : (srcBytes s n).length = (takenBytes (s.afterTake s.tagLen) n).length := by
    rw [length_readBytes, takenBytes_length]
  rw [gxmCommandXor, xorBytes_getD hlen, getD_readBytes _ _ hk, takenBytes_getD hk]
  rfl

/-! ## How the commands end -/

theorem gxmSeal_ends (hready : GxmReady s) (hwin : SealWindows s) :
    exec .gxmSeal s = .next (((s.afterTake s.tagLen).afterTake s.srcLen.toNat).deliver
      (gxmCommandXor s s.srcLen.toNat ++ gxmCommandTag s (gxmCommandXor s s.srcLen.toNat))) := by
  have hf : s.fault = false := hready.1
  exact exec_of_pass hf ((gxmSeal_pass hf).mpr ⟨hready, hwin⟩)

theorem gxmOpen_ends (hready : GxmReady s) (hwin : OpenWindows s) : exec .gxmOpen s = .next (gxmOpenEffect s) := by
  have hf : s.fault = false := hready.1
  exact exec_of_pass hf ((gxmOpen_pass hf).mpr ⟨hready, hwin⟩)

theorem gxmOpenEffect_verified (htag : gxmCommandTag s (srcBytes s (openLen s)) = receivedTag s) :
    gxmOpenEffect s
      = ((s.afterTake s.tagLen).afterTake (openLen s)).deliver (gxmCommandXor s (openLen s)) :=
  if_pos htag

theorem gxmOpenEffect_rejected (htag : gxmCommandTag s (srcBytes s (openLen s)) ≠ receivedTag s) :
    gxmOpenEffect s = (s.afterTake s.tagLen).authFailure (openLen s) :=
  if_neg htag

/-! ## The statement -/

/-- Settles O54: the tag by its bytes (`gxmCommandTag_getD`); SEAL and a verified OPEN deliver from the state after both
Takes, a rejected OPEN fails in the state after the first. -/
theorem gxmCommandsComplete : Obligations.GxmCommandsComplete := by
  intro s hwf hready n t next keyByte IsTag
  have hIsTag (ht : t ≤ 16) (ct T : Bytes) : IsTag ct T ↔ T = gxmCommandTag s ct := by
    rw [eq_iff_getD (gxmCommandTag_length ht ct)]
    exact and_congr_right fun _ => forall₂_congr fun j hj => by rw [gxmCommandTag_getD ht ct hj]
  refine ⟨fun ht hwin => ?sealed, fun ht hwin => ⟨fun htag => ?verified, fun htag => ?rejected⟩⟩
  case sealed =>
    obtain ⟨hframe, houtside, hreadBody, hreadTag⟩ :=
      deliver_sealed (s := (s.afterTake s.tagLen).afterTake n) hwf (gxmCommandXor_length s n)
        (gxmCommandTag_length ht (gxmCommandXor s n))
    refine ⟨_, gxmSeal_ends hready hwin, hframe, houtside, fun k hk => ?_, (hIsTag ht _ _).mpr ?_⟩
    · rw [← getD_readBytes _ _ hk]
      exact (congrArg (·.getD k 0) hreadBody).trans (gxmCommandXor_getD hk)
    · exact hreadTag.trans (congrArg _ hreadBody.symm)
  case verified =>
    obtain ⟨hframe, houtside, hbytes⟩ :=
      deliver_writes (s := (s.afterTake s.tagLen).afterTake (openLen s)) hwf (gxmCommandXor_length s (openLen s))
    rw [gxmCommandXor_length] at houtside hbytes
    exact ⟨_, (gxmOpen_ends hready hwin).trans (congrArg _ (gxmOpenEffect_verified ((hIsTag ht _ _).mp htag).symm)),
      hframe, houtside, fun k hk => (hbytes k hk).trans (gxmCommandXor_getD hk)⟩
  case rejected =>
    have hne : gxmCommandTag s (srcBytes s (openLen s)) ≠ receivedTag s := fun h => htag ((hIsTag ht _ _).mpr h.symm)
    exact ⟨_, (gxmOpen_ends hready hwin).trans (congrArg _ (gxmOpenEffect_rejected hne)),
      authFailure_writes (s := s.afterTake s.tagLen) hwf (openLen s)⟩

end Sys2Proof.Machine
end

section
/-! SUPPORT. MUR.SEAL and MUR.OPEN complete (45_ccm_gxm_mur.md R221 to R225). -/

namespace Sys2Proof.Machine

/-! ## Streams and their IVs, byte by byte -/

theorem keystream_eq_map (ks : Nat → Byte) (k : Nat) : keystream ks 0 k = (List.range k).map ks := by
  refine List.ext_getElem? fun j => ?_
  rw [keystream_getElem?, List.getElem?_map, Nat.zero_add]
  split_ifs with hj
  · rw [List.getElem?_range hj]; rfl
  · rw [List.getElem?_eq_none (by rw [List.length_range]; omega)]; rfl

theorem firstOf_eq_map (new : Bytes → Bytes → Option (Nat → Byte)) (key iv : Bytes) (k : Nat) :
    firstOf new key iv k = (new key iv).map fun ks => (List.range k).map ks := by
  rw [firstOf]
  cases new key iv with
  | none => rfl
  | some ks => exact congrArg some (keystream_eq_map ks k)

theorem getD_map_range {α : Type} (f : Nat → α) (d : α) {n j : Nat} (hj : j < n) :
    ((List.range n).map f).getD j d = f j := by
  rw [List.getD, List.getElem?_map, List.getElem?_range hj]
  rfl

/-- A string is the map of its bytes over its positions. -/
theorem eq_map_range {bs : Bytes} {n : Nat} {f : Nat → Byte} (hlen : bs.length = n)
    (h : ∀ j < n, bs.getD j 0 = f j) : bs = (List.range n).map f :=
  (eq_iff_getD (by rw [List.length_map, List.length_range])).mpr
    ⟨hlen, fun j hj => (h j hj).trans (getD_map_range f 0 hj).symm⟩

/-- A byte of an XOR of two strings, within both of them. -/
theorem getD_xorBytes {a b : Bytes} {j : Nat} (ha : j < a.length) (hb : j < b.length) :
    (xorBytes a b).getD j 0 = a.getD j 0 ^^^ b.getD j 0 := by
  rw [List.getD, List.getD, List.getD, xorBytes, List.getElem?_zipWith, List.getElem?_eq_getElem ha,
    List.getElem?_eq_getElem hb]
  rfl

/-- What follows the leading 16 bytes of a tag-stream IV, as MUR_IV_TAIL says (R222). -/
theorem murTagIv_append (tail : MurIvTail) (hv iv : Bytes) :
    ∃ rest : Bytes, murTagIv tail hv iv = xorBytes hv (iv.take 16) ++ rest ∧ rest.length = iv.length - 16
      ∧ ∀ j < rest.length, rest.getD j 0 = if tail = .literal then 0 else iv.getD (16 + j) 0 := by
  cases tail with
  | literal =>
    refine ⟨zeros (iv.drop 16).length, rfl, by rw [zeros_length, List.length_drop], fun j hj => ?_⟩
    rw [if_pos rfl, zeros, List.getD_replicate _ (by rwa [zeros_length] at hj)]
  | zeroExtended =>
    refine ⟨iv.drop 16, rfl, List.length_drop, fun j _ => ?_⟩
    rw [if_neg nofun, List.getD, List.getElem?_drop]
    rfl

/-- The tag-stream IV: the hash over the leading 16 bytes, then the tail (R222). -/
theorem murTagIv_eq_map (tail : MurIvTail) (hv : Block) (iv : Bytes) :
    murTagIv tail (bytesOf hv) iv = (List.range iv.length).map fun j =>
      if j < 16 then blockByte hv j ^^^ iv.getD j 0 else if tail = .literal then 0 else iv.getD j 0 := by
  obtain ⟨rest, heq, hrest, hbytes⟩ := murTagIv_append tail (bytesOf hv) iv
  have htake : (iv.take 16).length = min 16 iv.length := List.length_take
  have hhead : (xorBytes (bytesOf hv) (iv.take 16)).length = min 16 iv.length := by
    rw [xorBytes_length, bytesOf_length, htake]
    omega
  rw [heq]
  refine eq_map_range (by rw [List.length_append]; omega) fun j hj => ?_
  by_cases h16 : j < 16
  · have hiv : (iv.take 16).getD j 0 = iv.getD j 0 := by rw [List.getD, List.getElem?_take_of_lt h16]; rfl
    rw [if_pos h16, List.getD_append _ _ _ _ (by omega), getD_xorBytes (by rwa [bytesOf_length]) (by omega),
      getD_bytesOf h16, hiv]
  · rw [if_neg h16, List.getD_append_right _ _ _ _ (by omega), hhead, hbytes _ (by omega),
      show 16 + (j - min 16 iv.length) = j by omega]

/-- The data-stream IV: the tag over the leading bytes (R223). -/
theorem murDataIv_eq_map (iv tag : Bytes) :
    murDataIv iv tag = (List.range iv.length).map fun j =>
      if j < tag.length then iv.getD j 0 ^^^ tag.getD j 0 else iv.getD j 0 := by
  have hhead : (xorBytes iv tag).length = min iv.length tag.length := xorBytes_length ..
  refine eq_map_range (by rw [murDataIv, List.length_append, List.length_drop]; omega) fun j hj => ?_
  rw [murDataIv]
  by_cases ht : j < tag.length
  · rw [if_pos ht, List.getD_append _ _ _ _ (by omega), getD_xorBytes hj ht]
  · rw [if_neg ht, List.getD_append_right _ _ _ _ (by omega), List.getD, List.getElem?_drop, hhead,
      show tag.length + (j - min iv.length tag.length) = j by omega]
    rfl

/-! ## What MUR computes from its operands -/

variable {s : State}

/-- The tag is the leading bytes of the stream of the second key, where the factory gives one (R222). -/
theorem murCommandTag_eq (s : State) (pt : Bytes) :
    murCommandTag s pt
      = (Config.streamNew (auxBytes s)
          (murTagIv s.params.murIvTail (bytesOf (ghash s.tbl (aadBytes s) pt)) (ivBytes s))).map
        fun ks => (List.range s.tagLenL.toNat).map ks :=
  firstOf_eq_map ..

/-- The data of the command XORed with the stream of the first key under a tag, where the factory gives one (R223). -/
def murCommandXor (s : State) (tag data : Bytes) : Option Bytes :=
  murXor Config.streamNew (keyBytes s) (ivBytes s) tag data

/-- Bytes of src under the data stream. -/
theorem murCommandXor_srcBytes (s : State) (tag : Bytes) (n : Nat) :
    murCommandXor s tag (srcBytes s n)
      = (Config.streamNew (keyBytes s) (murDataIv (ivBytes s) tag)).map
        fun ks => (List.range n).map fun k => srcByte s k ^^^ ks k := by
  rw [murCommandXor, murXor, firstOf_eq_map, Option.map_map, length_readBytes]
  congr 1
  funext ks
  have hks : ((List.range n).map ks).length = n := by rw [List.length_map, List.length_range]
  have hsrc : (srcBytes s n).length = n := length_readBytes ..
  refine eq_map_range (by rw [Function.comp_apply, xorBytes_length, hks, hsrc, Nat.min_self]) fun k hk => ?_
  rw [Function.comp_apply, xorBytes_getD (hsrc.trans hks.symm), getD_readBytes _ _ hk, getD_map_range ks 0 hk]

/-! ## How the commands end -/

theorem murSeal_ends (hready : MurReady s) (hwin : SealWindows s) : exec .murSeal s = .next (murSealEffect s) := by
  have hf : s.fault = false := hready.1
  exact exec_of_pass hf ((murSeal_pass hf).mpr ⟨hready, hwin⟩)

theorem murOpen_ends (hready : MurReady s) (hwin : OpenWindows s) : exec .murOpen s = .next (murOpenEffect s) := by
  have hf : s.fault = false := hready.1
  exact exec_of_pass hf ((murOpen_pass hf).mpr ⟨hready, hwin⟩)

/-- A refused stream changes ERR and OUT_LEN only: E_STREAM is of class R. -/
theorem raise_stream_eq (s : State) : s.raise .stream = { s with err := some .stream, outLen := 0 } := by
  rw [raise_eq, isClassP, Bool.or_false]

section
variable {tag ct pt : Bytes}

theorem murSealEffect_tag_refused (htag : murCommandTag s (s.fetchAll .src) = none) :
    murSealEffect s = s.raise .stream := by
  unfold murSealEffect
  rw [htag]

theorem murSealEffect_data_refused (htag : murCommandTag s (s.fetchAll .src) = some tag)
    (hct : murXor Config.streamNew (s.fetchAll .key) (s.fetchAll .iv) tag (s.fetchAll .src) = none) :
    murSealEffect s = s.raise .stream := by
  unfold murSealEffect
  rw [htag]
  simp only [hct]

theorem murSealEffect_sealed (htag : murCommandTag s (s.fetchAll .src) = some tag)
    (hct : murXor Config.streamNew (s.fetchAll .key) (s.fetchAll .iv) tag (s.fetchAll .src) = some ct) :
    murSealEffect s = s.deliver (ct ++ tag) := by
  unfold murSealEffect
  rw [htag]
  simp only [hct]

theorem murOpenEffect_data_refused
    (hpt : murXor Config.streamNew (s.fetchAll .key) (s.fetchAll .iv) s.sealedTag s.sealedBody = none) :
    murOpenEffect s = s.raise .stream := by
  unfold murOpenEffect
  rw [hpt]

theorem murOpenEffect_tag_refused
    (hpt : murXor Config.streamNew (s.fetchAll .key) (s.fetchAll .iv) s.sealedTag s.sealedBody = some pt)
    (htag : murCommandTag s pt = none) : murOpenEffect s = s.raise .stream := by
  unfold murOpenEffect
  rw [hpt]
  simp only [htag]

/-- Both streams made, OPEN delivers the plaintext or fails as the tag comparison says. -/
theorem murOpenEffect_compared
    (hpt : murXor Config.streamNew (s.fetchAll .key) (s.fetchAll .iv) s.sealedTag s.sealedBody = some pt)
    (htag : murCommandTag s pt = some tag) :
    murOpenEffect s = if tag = s.sealedTag then s.deliver pt else s.authFailure s.bodyLen := by
  unfold murOpenEffect
  rw [hpt]
  simp only [htag]

end

/-! ## The statement -/

/-- Settles O55: the two streams are the factory's answers under the statement's IVs (`murCommandTag_eq`,
`murCommandXor_srcBytes`); each answer leads to one branch of SEAL and of OPEN. -/
theorem murCommandsComplete : Obligations.MurCommandsComplete := by
  intro s hwf hready _ n t iv tagIv dataIv refused
  have hrefused : s.raise .stream = refused := raise_stream_eq s
  have hlen (f : Nat → Byte) (m : Nat) : ((List.range m).map f).length = m := by
    rw [List.length_map, List.length_range]
  have htagOf (pt : Bytes) :
      murCommandTag s pt = (Config.streamNew (auxBytes s) (tagIv pt)).map fun ks => (List.range t).map ks := by
    rw [murCommandTag_eq, murTagIv_eq_map]
  have hxorOf {tag : Bytes} (htag : tag.length = t) (m : Nat) : murCommandXor s tag (srcBytes s m)
      = (Config.streamNew (keyBytes s) (dataIv tag)).map
        fun ks => (List.range m).map fun k => srcByte s k ^^^ ks k := by
    rw [murCommandXor_srcBytes, murDataIv_eq_map, htag]
  have hxorOpen := hxorOf (length_readBytes s.mem (s.srcAddr.toNat + openLen s) t) (openLen s)
  refine ⟨fun hwin => ⟨_, murSeal_ends hready hwin, fun hnone => ?sealTagRefused, fun tagKs htagKs => ?sealTag⟩,
    fun hwin => ⟨_, murOpen_ends hready hwin, fun hnone => ?openDataRefused, fun ks hks pt hpt => ?openData⟩⟩
  case sealTagRefused =>
    have htag : murCommandTag s (srcBytes s n) = none := by rw [htagOf, hnone, Option.map_none]
    exact (murSealEffect_tag_refused htag).trans hrefused
  case sealTag =>
    have htag : murCommandTag s (srcBytes s n) = some ((List.range t).map tagKs) := by
      rw [htagOf, htagKs, Option.map_some]
    have hct := hxorOf (hlen tagKs t) n
    refine ⟨fun hnone => ?dataRefused, fun ks hks => ?sealed⟩
    case dataRefused =>
      rw [hnone, Option.map_none] at hct
      exact (murSealEffect_data_refused htag hct).trans hrefused
    case sealed =>
      rw [hks, Option.map_some] at hct
      rw [murSealEffect_sealed htag hct]
      obtain ⟨hframe, houtside, hreadBody, hreadTag⟩ :=
        deliver_sealed hwf (hlen (fun k => srcByte s k ^^^ ks k) n) (hlen tagKs t)
      refine ⟨hframe, houtside, fun k hk => ?_, fun j hj => ?_⟩
      · rw [← getD_readBytes _ _ hk, hreadBody, getD_map_range _ _ hk]
      · rw [← getD_readBytes _ _ hj, hreadTag, getD_map_range _ _ hj]
  case openDataRefused =>
    rw [hnone, Option.map_none] at hxorOpen
    exact (murOpenEffect_data_refused hxorOpen).trans hrefused
  case openData =>
    rw [hks, Option.map_some, ← hpt] at hxorOpen
    refine ⟨fun hnone => ?tagRefused, fun tagKs htagKs => ?compared⟩
    case tagRefused =>
      have htag : murCommandTag s pt = none := by rw [htagOf, hnone, Option.map_none]
      exact (murOpenEffect_tag_refused hxorOpen htag).trans hrefused
    case compared =>
      have htag : murCommandTag s pt = some ((List.range t).map tagKs) := by rw [htagOf, htagKs, Option.map_some]
      have hptLen : pt.length = openLen s := hpt ▸ hlen _ _
      rw [murOpenEffect_compared hxorOpen htag]
      refine ⟨fun hequal => ?verified, fun hdiffer => ?rejected⟩
      case verified =>
        rw [if_pos (show (List.range t).map tagKs = s.sealedTag from hequal)]
        exact deliver_writes hwf hptLen
      case rejected =>
        rw [if_neg (show (List.range t).map tagKs ≠ s.sealedTag from hdiffer)]
        exact authFailure_writes hwf _

end Sys2Proof.Machine
end

section
/-! SUPPORT. The system commands complete (46_sys.md R230, R231): neither has a check, so only FAULT can stop them. -/

namespace Sys2Proof.Machine

variable {i : Instr} {s : State}

/-- A faulted core ignores every command (60_exceptions.md R242). -/
theorem exec_of_fault (hf : s.fault = true) (i : Instr) : exec i s = .next s := by
  rw [exec_eq_command, command_of_fault hf]

/-- A command with no check always has its effect on a core without FAULT. -/
theorem exec_of_checksOf_nil (hnone : checksOf i s = []) (hf : s.fault = false) :
    exec i s = .next (effectOf i s) := by
  have hpass : ChecksPass i s := by
    rw [ChecksPass, hnone]
    exact List.forall_mem_nil _
  exact exec_of_pass hf hpass

/-- Settles O21: with FAULT both commands are ignored (`exec_of_fault`); without it, having no check, they end in their
effect (`exec_of_checksOf_nil`), which is the state the statement writes out field by field. -/
theorem systemCommandsComplete : Obligations.SystemCommandsComplete := by
  intro s
  exact ⟨fun hfault => ⟨exec_of_fault hfault .sysNop, exec_of_fault hfault .sysZeroize⟩,
    fun hf => ⟨exec_of_checksOf_nil rfl hf, exec_of_checksOf_nil rfl hf⟩⟩

end Sys2Proof.Machine
end

section
/-! SUPPORT. A faulted core (60_exceptions.md R242, R250): it ignores commands, and only the reset event ends that. -/

namespace Sys2Proof.Machine

variable {s : State}

/-- A faulted core ignores a word that is no command too (R242; log 8). -/
theorem illegalCommand_of_fault (hf : s.fault = true) : illegalCommand s = .next s := by
  rw [illegalCommand, command_of_fault hf]

/-- A faulted core ignores every write to CMD (R242). -/
theorem issueCommand_of_fault (hf : s.fault = true) (v : DWord) : issueCommand v s = .next s := by
  rw [issueCommand]
  split
  · exact exec_of_fault hf _
  · exact illegalCommand_of_fault hf

/-- A register write and the taking of its access do not depend on each other. -/
theorem writeReg_pending (s : State) (rest : List HostEvent) (no : Nat) (v : DWord) :
    ({ s with pending := rest } : State).writeReg no v = { s.writeReg no v with pending := rest } := by
  unfold State.writeReg
  split <;> rfl

/-- A host write leaves FAULT, which is in a read-only register (10_state.md R16, R17). -/
@[simp] theorem writeReg_fault (s : State) (no : Nat) (v : DWord) : (s.writeReg no v).fault = s.fault := by
  unfold State.writeReg
  split <;> rfl

/-- Settles O13: a write to CMD is ignored (`issueCommand_of_fault`), and the other accesses do not look at FAULT. -/
theorem faultedCoreIgnoresCommands : Obligations.FaultedCoreIgnoresCommands := by
  intro s hf
  refine ⟨exec_of_fault hf, fun v rest h => ?_, fun no rest h => step_readReg h, fun no v rest hno h => ?_⟩
  · rw [step_pending h, serveHost, if_pos rfl, issueCommand_of_fault (s := { s with pending := rest }) hf]
  · rw [step_writeReg hno h, writeReg_pending]

/-- Settles O14: of all a step can do (`step_cases`), everything but the reset event leaves a FAULT that is set. -/
theorem onlyResetClearsFault : Obligations.OnlyResetClearsFault := by
  intro s t h hf ht
  have hkept (hst : t.fault = s.fault) : s.pending.head? = some .reset := by simp [hf, ht] at hst
  have hignored {r : Result} {rest : List HostEvent} (hr : r = .next { s with pending := rest })
      (hnext : r = .next t) : t.fault = s.fault := by
    rw [← Host.Outcome.next.inj (hr.symm.trans hnext)]
  rcases step_cases h with ⟨_, rfl⟩ | ⟨_, rest, i, _, _, he⟩ | ⟨_, rest, _, _, _, he⟩ | ⟨no, v, rest, _, _, rfl⟩
    | ⟨_, _, _, rfl⟩ | ⟨_, _, _, _, _, rfl⟩ | ⟨_, _, _, _, rfl⟩ | ⟨_, hp, _⟩
  · exact hkept rfl
  · exact hkept (hignored (exec_of_fault (s := { s with pending := rest }) hf i) he)
  · exact hkept (hignored (illegalCommand_of_fault (s := { s with pending := rest }) hf) he)
  · exact hkept (writeReg_fault _ no v)
  · exact hkept rfl
  · exact hkept rfl
  · exact hkept rfl
  · rw [hp]; rfl

end Sys2Proof.Machine
end

section
/-! SUPPORT. The error a command reports (60_exceptions.md R241, R246, R247): its checks are, in R247's order, the
conditions of R241's table. -/

namespace Sys2Proof.Machine

variable {i : Instr} {s : State}

/-! ## A list of checks against a table of conditions -/

/-- Each check fails exactly where the condition p of its error holds, provided the checks before it pass. -/
inductive ChecksFollow (p : Err → Bool) : List Check → Prop
  | nil : ChecksFollow p []
  | cons {c : Check} {cs : List Check} (head : c.fails = false ↔ p c.err = false)
      (tail : c.fails = false → ChecksFollow p cs) : ChecksFollow p (c :: cs)

/-- Where the checks follow the conditions, the first failing check is the first condition that holds. -/
theorem firstError_eq_find {p : Err → Bool} {cs : List Check} (h : ChecksFollow p cs) :
    firstError cs = (cs.map Check.err).find? p := by
  induction h with
  | nil => rfl
  | @cons c cs head _ ih =>
    rw [firstError_cons, List.map_cons, List.find?_cons]
    cases hc : c.fails with
    | false => rw [head.mp hc]; exact ih hc
    | true =>
      have hp : p c.err = true := by simpa [hc] using head
      rw [hp]; rfl

/-- A command's checks raise, in R247's order, all errors of that order that the command's row of R246 lists; of the
others no condition holds. -/
theorem firstRaised_eq_find (i : Instr) (s : State) :
    firstRaised i s = ((checksOf i s).map Check.err).find? (raisedWhen i s) := by
  cases i <;> rfl

/-! ## The conditions that many commands share -/

/-- The contexts that a command needs are valid, and its unit is bound (30_encoding.md R66). -/
abbrev InSequence (i : Instr) (s : State) : Prop :=
  (needsKs0 i = true → s.ks0.valid = true) ∧ (needsKs1 i = true → s.ks1.valid = true)
    ∧ (needsTbl i = true → s.tblV = true) ∧ ∀ u, unitOf i = some u → s.active = some u

theorem raisedWhen_seq : raisedWhen i s .seq = false ↔ InSequence i s := by
  rw [raisedWhen, InSequence]
  simp only [Bool.or_eq_false_iff, Bool.and_eq_false_imp, Bool.not_eq_false', and_assoc]
  cases unitOf i <;> simp

theorem raisedWhen_dstShort (hi : writesDst i = true) :
    raisedWhen i s .dstShort = false ↔ dstWindow i s ≤ s.dstCap.toNat := by
  simp [raisedWhen, hi]

theorem raisedWhen_overlap (hi : writesDst i = true) :
    raisedWhen i s .overlap = false
      ↔ SameOrApart s.dstAddr.toNat (dstWindow i s) s.srcAddr.toNat (srcWindow i s) := by
  rw [raisedWhen, hi, Bool.true_and, Bool.not_eq_false', decide_eq_true_iff]

theorem raisedWhen_bus :
    raisedWhen i s .bus = false ↔ ∀ r ∈ regionsOf i s, InMemory s r.1 r.2 := by
  simp [raisedWhen, imp_iff_not_or]

/-! ## One check, and the condition of its error -/

/-- Where a command's first check is of its sequence, it asks for what the tables say the command needs. -/
theorem seq_follows {c : Check} (h : (checksOf i s).head? = some c) (he : c.err = .seq) :
    c.fails = false ↔ raisedWhen i s c.err = false := by
  rw [he, raisedWhen_seq]
  cases i with
  | sysNop | sysZeroize => cases h
  | sm4Init | gfInit | xtsInit | gxmInit | murInit => cases h; cases he
  | _ =>
    cases h
    simp [seqCheck_fails, InSequence, needsKs0, needsKs1, needsTbl, unitOf, and_comm, and_left_comm]

theorem failIf_follows {p : Prop} [Decidable p] {e : Err} (h : raisedWhen i s e = true ↔ p) :
    (failIf (decide p) e).fails = false ↔ raisedWhen i s (failIf (decide p) e).err = false := by
  rw [failIf_decide_fails, failIf_err, ← h, Bool.not_eq_true]

/-- A size checked against the ends of a range, the table listing the range. -/
theorem range_follows {lo hi n : Nat} {e : Err}
    (h : raisedWhen i s e = !(List.range' lo (hi + 1 - lo)).contains n) :
    (failIf (decide (n < lo) || decide (n > hi)) e).fails = false
      ↔ raisedWhen i s (failIf (decide (n < lo) || decide (n > hi)) e).err = false := by
  rw [failIf_fails, failIf_err, h]
  simp only [Bool.or_eq_false_iff, decide_eq_false_iff_not, Bool.not_eq_false', List.contains_iff_mem,
    List.mem_range'_1]
  omega

theorem nonceCheck_follows (h : raisedWhen i s .nonceLen = (s.ivLen != s.nonceLenL)) :
    (nonceCheck s).fails = false ↔ raisedWhen i s (nonceCheck s).err = false := by
  rw [nonceCheck_fails, show (nonceCheck s).err = .nonceLen from rfl, h, bne_eq_false_iff_eq]

/-- The two bounds that CCM's length limit is the lesser of (45_ccm_gxm_mur.md R210). -/
theorem ccmMax_lt_iff (s : State) (n : Nat) :
    (decide (2 ^ (8 * (15 - s.nonceLenL.toNat)) ≤ n) || decide (2 ^ 32 ≤ n)) = true ↔ n > ccmMax s := by
  have hpos := Nat.two_pow_pos (8 * (15 - s.nonceLenL.toNat))
  rw [Bool.or_eq_true, decide_eq_true_iff, decide_eq_true_iff, ccmMax]
  omega

theorem busCheck_follows {rs : List Region} (h : regionsOf i s = rs.map fun r => (r.addr, r.len)) :
    (s.busCheck rs).fails = false ↔ raisedWhen i s (s.busCheck rs).err = false := by
  rw [busCheck_fails, busCheck_err, raisedWhen_bus, h, List.forall_mem_map]

/-- An operand that has passed its length check is all of the region its registers give. -/
theorem region_eq_whole {o : Operand} {n : Nat} {e : Err} (h : (failIf (s.len o ≠ n) e).fails = false) :
    s.region o n = s.whole o := by
  rw [failIf_decide_fails, not_not] at h
  rw [State.whole, h]

/-! ## The checks that many commands share -/

/-- A command's only or last check. -/
theorem ChecksFollow.last {p : Err → Bool} {c : Check} (h : c.fails = false ↔ p c.err = false) :
    ChecksFollow p [c] :=
  .cons h fun _ => .nil

/-- The last three checks of a data command: capacity, range and overlap of its windows (R247). -/
theorem windows_follow (hi : writesDst i = true) {rs : List Region}
    (hbus : (s.busCheck rs).fails = false ↔ raisedWhen i s (s.busCheck rs).err = false) :
    ChecksFollow (raisedWhen i s)
      [s.capCheck (dstWindow i s), s.busCheck rs, s.overlapCheck (dstWindow i s) (srcWindow i s)] := by
  refine .cons ?_ fun _ => .cons hbus fun _ => .last ?_
  · rw [capCheck_fails, capCheck_err, raisedWhen_dstShort hi]
  · rw [overlapCheck_fails, overlapCheck_err, raisedWhen_overlap hi]

/-- The table lists src and its window, which for a SEAL are the same region. -/
theorem sealChecks_follow (hi : isSeal i = true) {extra : List Region}
    (h : regionsOf i s = (extra ++ [s.whole .aad, s.whole .src, s.whole .src,
      s.region .dst (s.len .src + s.tagLen)]).map fun r => (r.addr, r.len)) :
    ChecksFollow (raisedWhen i s) (sealChecks s extra) := by
  have hbus : (s.busCheck (extra ++ [s.whole .aad, s.whole .src, s.region .dst (s.len .src + s.tagLen)])).fails
      = false ↔ raisedWhen i s .bus = false := by
    rw [busCheck_fails, raisedWhen_bus, h, List.forall_mem_map]
    simp only [List.forall_mem_append, List.forall_mem_cons, and_self_left]
  cases i with
  | gcmSeal | ccmSeal | gxmSeal | murSeal => exact windows_follow rfl hbus
  | _ => cases hi

/-- The table lists src and its window, which for an OPEN is a part of src. -/
theorem openChecks_follow (hi : isOpen i = true) {extra : List Region}
    (h : regionsOf i s = (extra ++ [s.whole .aad, s.whole .src, s.region .src s.bodyLen,
      s.region .dst s.bodyLen]).map fun r => (r.addr, r.len)) :
    ChecksFollow (raisedWhen i s) (openChecks s extra) := by
  have hpart (hsrc : InMemory s (s.addr .src) (s.len .src)) : InMemory s (s.addr .src) s.bodyLen :=
    inMemory_mono hsrc (Nat.sub_le ..)
  have hbus : (s.busCheck (extra ++ [s.whole .aad, s.whole .src, s.region .dst s.bodyLen])).fails
      = false ↔ raisedWhen i s .bus = false := by
    rw [busCheck_fails, raisedWhen_bus, h, List.forall_mem_map]
    simp only [List.forall_mem_append, List.forall_mem_cons, whole_addr, whole_len, region_addr, region_len]
    tauto
  cases i with
  | gcmOpen | ccmOpen | gxmOpen | murOpen => exact windows_follow rfl hbus
  | _ => cases hi

/-- The IV commands: INIT and SETIV (43_block_stream_modes.md R141, R144). -/
theorem ivChecks_follow {ok : Bool} (hc : checksOf i s = ivChecks ok s)
    (hlen : raisedWhen i s .ivLen = (s.ivLen.toNat != 16))
    (hregions : regionsOf i s = [(s.ivAddr.toNat, s.ivLen.toNat)]) :
    ChecksFollow (raisedWhen i s) (ivChecks ok s) :=
  .cons (seq_follows (by rw [hc]; rfl) rfl) fun _ =>
    .cons (failIf_follows (by rw [hlen]; exact bne_iff_ne)) fun h16 =>
      .last (busCheck_follows (by rw [region_eq_whole h16]; exact hregions))

/-! ## Every command -/

/-- The checks of every command follow the table of conditions. -/
theorem checksOf_follow (i : Instr) (s : State) : ChecksFollow (raisedWhen i s) (checksOf i s) := by
  cases i with
  | sysNop | sysZeroize => exact .nil
  | sm4Init | gfInit =>
    exact .cons (failIf_follows bne_iff_ne) fun hlen =>
      .last (busCheck_follows (by rw [region_eq_whole hlen]; rfl))
  | sm4Enc | sm4Dec | sm4Encb | sm4Decb | hctrEnc | hctrDec =>
    exact .cons (seq_follows rfl rfl) fun _ => .cons (failIf_follows decide_eq_true_iff) fun _ =>
      windows_follow rfl (busCheck_follows rfl)
  | gfMul | ecbInit => exact .last (seq_follows rfl rfl)
  | gfUpd => exact .cons (seq_follows rfl rfl) fun _ => .last (busCheck_follows rfl)
  | cbcInit | cfbInit | ofbInit | ctrInit | bcInit | ofbnlfInit | cbcSetiv | bcSetiv | ofbnlfSetiv =>
    exact ivChecks_follow rfl rfl rfl
  | ecbEnc | ecbDec | cbcEnc | cbcDec | bcEnc | bcDec | ofbnlfEnc | ofbnlfDec =>
    exact .cons (seq_follows rfl rfl) fun _ => .cons (failIf_follows bne_iff_ne) fun _ =>
      windows_follow rfl (busCheck_follows rfl)
  | cfbEnc | cfbDec | ofbXor | ctrXor =>
    exact .cons (seq_follows rfl rfl) fun _ => windows_follow rfl (busCheck_follows rfl)
  | xtsInit =>
    exact .cons (failIf_follows bne_iff_ne) fun hlen => .cons .rfl fun _ =>
      .last (busCheck_follows (by rw [region_eq_whole hlen]; rfl))
  | xtsEnc | xtsDec =>
    exact .cons (seq_follows rfl rfl) fun _ => .cons (failIf_follows bne_iff_ne) fun hiv =>
      .cons (failIf_follows decide_eq_true_iff) fun _ => .cons (failIf_follows decide_eq_true_iff) fun _ =>
        windows_follow rfl (busCheck_follows (by rw [region_eq_whole hiv]; rfl))
  | hctrInit =>
    exact .cons (seq_follows rfl rfl) fun _ => .cons (failIf_follows bne_iff_ne) fun haux =>
      .cons (failIf_follows bne_iff_ne) fun hiv =>
        .last (busCheck_follows (by rw [region_eq_whole hiv, region_eq_whole haux]; rfl))
  | gcmInit =>
    exact .cons (seq_follows rfl rfl) fun _ => .cons (range_follows rfl) fun _ =>
      .last (failIf_follows beq_iff_eq)
  | ccmInit =>
    exact .cons (seq_follows rfl rfl) fun _ => .cons .rfl fun _ => .last (range_follows rfl)
  | gxmInit | murInit =>
    exact .cons (failIf_follows bne_iff_ne) fun hlen => .cons (range_follows rfl) fun _ => .cons .rfl fun _ =>
      .last (busCheck_follows (by rw [region_eq_whole hlen]; rfl))
  | gcmSeal =>
    exact .cons (seq_follows rfl rfl) fun _ => .cons (nonceCheck_follows rfl) fun _ =>
      .cons (failIf_follows decide_eq_true_iff) fun _ => sealChecks_follow rfl rfl
  | ccmSeal =>
    exact .cons (seq_follows rfl rfl) fun _ => .cons (nonceCheck_follows rfl) fun _ =>
      .cons (failIf_follows (ccmMax_lt_iff s _)) fun _ => sealChecks_follow rfl rfl
  | gcmOpen =>
    exact .cons (seq_follows rfl rfl) fun _ => .cons (nonceCheck_follows rfl) fun _ =>
      .cons (failIf_follows decide_eq_true_iff) fun _ => .cons (failIf_follows decide_eq_true_iff) fun _ =>
        openChecks_follow rfl rfl
  | ccmOpen =>
    exact .cons (seq_follows rfl rfl) fun _ => .cons (nonceCheck_follows rfl) fun _ =>
      .cons (failIf_follows decide_eq_true_iff) fun _ => .cons (failIf_follows (ccmMax_lt_iff s _)) fun _ =>
        openChecks_follow rfl rfl
  | gxmSeal => exact .cons (seq_follows rfl rfl) fun _ => sealChecks_follow rfl rfl
  | gxmOpen =>
    exact .cons (seq_follows rfl rfl) fun _ => .cons (failIf_follows decide_eq_true_iff) fun _ =>
      openChecks_follow rfl rfl
  | murSeal =>
    exact .cons (seq_follows rfl rfl) fun _ => .cons (failIf_follows decide_eq_true_iff) fun _ =>
      sealChecks_follow rfl rfl
  | murOpen =>
    exact .cons (seq_follows rfl rfl) fun _ => .cons (failIf_follows decide_eq_true_iff) fun _ =>
      .cons (failIf_follows decide_eq_true_iff) fun _ => openChecks_follow rfl rfl

/-- A command's first failing check is the first condition of R247's order that holds. -/
theorem firstError_checksOf (i : Instr) (s : State) : firstError (checksOf i s) = firstRaised i s := by
  rw [firstError_eq_find (checksOf_follow i s), firstRaised_eq_find]

end Sys2Proof.Machine
end

section
/-! SUPPORT. Every way a command ends on a core without FAULT (60_exceptions.md R243 to R247). -/

namespace Sys2Proof.Machine

variable {i : Instr} {s t : State} {e : Err}

/-- t is how the command i ends from the state s: with the first error whose condition holds, or, where none does, with
success, a tag mismatch of an OPEN (42_gcm.md R132; in GXM the mask has been taken, 45_ccm_gxm_mur.md R215), or a
refusing stream factory (45_ccm_gxm_mur.md R224, R225). -/
inductive CommandEnd (i : Instr) (s : State) : State → Prop
  | raised {e : Err} (hraised : firstRaised i s = some e) : CommandEnd i s (s.raise e)
  | success {t : State} (hnone : firstRaised i s = none) (herr : t.err = none) (hfault : t.fault = s.fault) :
      CommandEnd i s t
  | authFailure {b : State} (hnone : firstRaised i s = none) (hopen : isOpen i = true)
      (hb : b = if i = .gxmOpen then s.afterTake s.tagLen else s) : CommandEnd i s (b.authFailure s.bodyLen)
  | streamRefused (hnone : firstRaised i s = none) (hmur : i ∈ [Instr.murSeal, .murOpen]) :
      CommandEnd i s (s.raise .stream)

/-- The effect of a command that neither opens nor asks the stream factory is a success. -/
theorem effectOf_succeeds (hopen : isOpen i = false) (hmur : i ≠ .murSeal) (s : State) :
    (effectOf i s).err = none ∧ (effectOf i s).fault = s.fault := by
  cases i with
  | gfInit =>
    refine ⟨rfl, ?_⟩
    rw [effectOf, finish_fault, loadTable_fault]
    split <;> rfl
  | gcmOpen | ccmOpen | gxmOpen | murOpen => cases hopen
  | murSeal => exact absurd rfl hmur
  | _ =>
    simp [effectOf, initIvEffect, setIvEffect, ecbEffect, blockEffect, streamEffect, gxmSealEffect]

theorem murSealEffect_commandEnd (hnone : firstRaised .murSeal s = none) :
    CommandEnd .murSeal s (murSealEffect s) := by
  unfold murSealEffect
  split
  · exact .streamRefused hnone (by decide)
  · split
    · exact .streamRefused hnone (by decide)
    · exact .success hnone rfl rfl

theorem murOpenEffect_commandEnd (hnone : firstRaised .murOpen s = none) :
    CommandEnd .murOpen s (murOpenEffect s) := by
  unfold murOpenEffect
  split
  · exact .streamRefused hnone (by decide)
  · split
    · exact .streamRefused hnone (by decide)
    · split
      · exact .success hnone rfl rfl
      · exact .authFailure hnone rfl rfl

/-- An OPEN whose streams are there compares tags. -/
theorem openEffect_commandEnd (hnone : firstRaised i s = none) (hopen : isOpen i = true) :
    CommandEnd i s (effectOf i s) := by
  cases i with
  | gcmOpen =>
    rw [effectOf, gcmOpenEffect]
    split
    · exact .success hnone rfl rfl
    · exact .authFailure hnone rfl rfl
  | ccmOpen =>
    rw [effectOf, ccmOpenEffect]
    split
    · exact .success hnone rfl rfl
    · exact .authFailure hnone rfl rfl
  | gxmOpen =>
    rw [effectOf, gxmOpenEffect]
    split
    · exact .success hnone rfl (by simp)
    · exact .authFailure hnone rfl rfl
  | murOpen => exact murOpenEffect_commandEnd hnone
  | _ => cases hopen

/-- Where no condition of the table holds, a command's effect is one of its ends. -/
theorem effectOf_commandEnd (hnone : firstRaised i s = none) : CommandEnd i s (effectOf i s) := by
  by_cases hmur : i = .murSeal
  · subst hmur
    exact murSealEffect_commandEnd hnone
  · cases hopen : isOpen i with
    | true => exact openEffect_commandEnd hnone hopen
    | false =>
      obtain ⟨herr, hfault⟩ := effectOf_succeeds hopen hmur s
      exact .success hnone herr hfault

/-- A command always ends in a next state, in one of these ways. -/
theorem exec_commandEnd (hf : s.fault = false) (i : Instr) : ∃ t, exec i s = .next t ∧ CommandEnd i s t := by
  refine ⟨_, exec_eq_command i s, ?_⟩
  cases hfirst : firstRaised i s with
  | some e =>
    rw [command_of_error hf ((firstError_checksOf i s).trans hfirst)]
    exact .raised hfirst
  | none =>
    have hpass : ChecksPass i s := firstError_eq_none.mp ((firstError_checksOf i s).trans hfirst)
    rw [command_of_pass hf hpass]
    exact effectOf_commandEnd hfirst

/-- Taking an error on a core without FAULT leaves FAULT as the error's class says (R243, R244). -/
theorem raise_of_no_fault (hf : s.fault = false) (e : Err) :
    s.raise e = { s with err := some e, fault := isClassP e, outLen := 0 } := by
  rw [raise_eq, hf, Bool.false_or]

/-- An error of class R leaves FAULT (R244). -/
theorem raise_of_classR (s : State) (h : isClassP e = false) : s.raise e = { s with err := some e, outLen := 0 } := by
  rw [raise_eq, h, Bool.or_false]

/-- Settles O16: the checks follow the table (`firstError_checksOf`), and past them a command ends as `CommandEnd`
says. -/
theorem firstFailingCheckIsReported : Obligations.FirstFailingCheckIsReported := by
  intro i s hf
  obtain ⟨t, hexec, hend⟩ := exec_commandEnd hf i
  refine ⟨fun e he => ?_, fun hnone => ⟨t, hexec, ?_⟩⟩
  · cases hend with
    | raised hraised =>
      obtain rfl := Option.some.inj (hraised.symm.trans he)
      rw [hexec, raise_of_no_fault hf]
    | success hnone | authFailure hnone | streamRefused hnone => cases hnone.symm.trans he
  · cases hend with
    | raised hraised => cases hnone.symm.trans hraised
    | success _ herr hfault => exact ⟨hfault.trans hf, .inl herr⟩
    | authFailure _ hopen hb =>
      refine ⟨?_, .inr (.inl ⟨rfl, hopen⟩)⟩
      rw [authFailure_fault, hb, isClassP, Bool.or_false]
      split
      · rwa [afterTake_fault]
      · exact hf
    | streamRefused _ hmur => exact ⟨by rw [raise_of_no_fault hf]; rfl, .inr (.inr ⟨rfl, hmur⟩)⟩

/-- The errors of R247's order are among those of the command's row of R246. -/
theorem raisable_of_firstRaised (h : firstRaised i s = some e) : e ∈ raisable i := by
  obtain ⟨c, hc, rfl, _⟩ := firstError_mem ((firstError_checksOf i s).trans h)
  exact checksOf_err_raisable i s c hc

theorem auth_raisable_of_isOpen (h : isOpen i = true) : Err.auth ∈ raisable i := by
  cases i with
  | gcmOpen | ccmOpen | gxmOpen | murOpen => decide
  | _ => cases h

theorem stream_raisable_of_mur (h : i ∈ [Instr.murSeal, .murOpen]) : Err.stream ∈ raisable i := by
  revert i
  decide

/-- Settles O17: by how a command ends. -/
theorem commandsRaiseOnlyTheirErrors : Obligations.CommandsRaiseOnlyTheirErrors := by
  intro i s t e hf h he
  obtain ⟨t', hexec, hend⟩ := exec_commandEnd hf i
  obtain rfl := Host.Outcome.next.inj (hexec.symm.trans h)
  cases hend with
  | raised hraised => cases he; exact raisable_of_firstRaised hraised
  | success _ herr => cases herr.symm.trans he
  | authFailure _ hopen => cases he; exact auth_raisable_of_isOpen hopen
  | streamRefused _ hmur =>
    cases he
    exact stream_raisable_of_mur hmur

/-- E_AUTH among the checks is an OPEN input shorter than the tag (42_gcm.md R130). -/
theorem firstRaised_auth (h : firstRaised i s = some .auth) :
    isOpen i = true ∧ s.srcLen.toNat < s.tagLenL.toNat := by
  have hraised : raisedWhen i s .auth = true := List.find?_some h
  simpa [raisedWhen] using hraised

/-- An OPEN whose checks pass has an input that holds a tag (42_gcm.md R130). -/
theorem tagLen_le_srcLen_of_firstRaised (h : firstRaised i s = none) (hopen : isOpen i = true) :
    s.tagLenL.toNat ≤ s.srcLen.toNat := by
  have hraised := List.find?_eq_none.mp h .auth (by decide)
  simpa [raisedWhen, hopen] using hraised

/-- An OPEN that fails has advanced SPOS by the mask it took, in GXM, and changed nothing else of its state before the
failure (45_ccm_gxm_mur.md R215). -/
theorem mask_taken_eq (i : Instr) (s : State) : (if i = .gxmOpen then s.afterTake s.tagLen else s)
    = { s with spos := if i = .gxmOpen then s.spos + s.tagLenL.setWidth 64 else s.spos } := by
  split
  · rw [State.afterTake, State.tagLen, BitVec.ofNat_toNat]
  · rfl

/-- Everything a tag mismatch does: ERR, OUT_LEN, zeros at dst, and in GXM.OPEN the mask taken (42_gcm.md R132,
45_ccm_gxm_mur.md R215). -/
theorem tagMismatch_writes {b : State} (hwf : s.mem.wf) (hb : b = if i = .gxmOpen then s.afterTake s.tagLen else s)
    (ht : t = b.authFailure s.bodyLen) :
    t = { s with err := some .auth, outLen := 0, mem := t.mem, spos := t.spos }
      ∧ Written s.mem t.mem s.dstAddr.toNat (zeros (openLen s))
      ∧ t.spos = if i = .gxmOpen then s.spos + s.tagLenL.setWidth 64 else s.spos := by
  rw [mask_taken_eq] at hb
  have hwfb : b.mem.wf := hb ▸ hwf
  obtain ⟨heq, hwritten⟩ := authFailure_writes hwfb s.bodyLen
  subst ht hb
  exact ⟨heq, hwritten, rfl⟩

/-- Settles O15: by how a command ends. An error of the table is `State.raise`, with E_AUTH for a short input only; a
tag mismatch is `tagMismatch_writes`; a refusing factory is of class R. -/
theorem errorsHaveExactlyTheirEffects : Obligations.ErrorsHaveExactlyTheirEffects := by
  intro i s hwf hf
  obtain ⟨t, hexec, hend⟩ := exec_commandEnd hf i
  refine ⟨t, hexec, fun e he => ?_⟩
  cases hend with
  | raised hraised =>
    cases he
    refine ⟨raise_of_classP s, fun hclass _ => raise_of_classR s hclass, ?_⟩
    rintro rfl
    obtain ⟨hopen, hshort⟩ := firstRaised_auth hraised
    exact ⟨hopen, fun _ => raise_of_classR s rfl, fun hlong => absurd hshort (Nat.not_lt.mpr hlong)⟩
  | success _ herr => cases herr.symm.trans he
  | authFailure hnone hopen hb =>
    cases he
    have hlong := tagLen_le_srcLen_of_firstRaised hnone hopen
    exact ⟨nofun, fun _ hne => absurd rfl hne, fun _ =>
      ⟨hopen, fun hshort => absurd hshort (Nat.not_lt.mpr hlong), fun _ => tagMismatch_writes hwf hb rfl⟩⟩
  | streamRefused => cases he; exact ⟨nofun, fun _ _ => raise_stream_eq s, nofun⟩

end Sys2Proof.Machine
end

section
/-! SUPPORT. Right after a reset event (70_reset_and_hazards.md R272): no context is valid and no unit is bound, so a
command that needs one of them fails its first check, and E_SEQ leads R247's order. -/

namespace Sys2Proof.Machine

variable {i : Instr} {s : State}

/-- E_SEQ leads R247's order: where its condition holds, it is the error reported. -/
theorem firstRaised_seq (h : raisedWhen i s .seq = true) : firstRaised i s = some .seq :=
  List.find?_cons_of_pos h

/-- A command that is in sequence at the state of a reset event needs neither KS0 nor the table nor a bound unit
(10_state.md R30). -/
theorem needs_nothing_of_inSequence_resetEvent (h : InSequence i s.resetEvent) :
    needsKs0 i = false ∧ needsTbl i = false ∧ unitOf i = none := by
  obtain ⟨hks0, _, htbl, hunit⟩ := h
  have hno_ks0 : s.resetEvent.ks0.valid ≠ true := Bool.false_ne_true
  have hno_tbl : s.resetEvent.tblV ≠ true := Bool.false_ne_true
  have hunbound : s.resetEvent.active = none := rfl
  refine ⟨Bool.eq_false_iff.mpr (mt hks0 hno_ks0), Bool.eq_false_iff.mpr (mt htbl hno_tbl),
    Option.eq_none_iff_forall_ne_some.mpr fun u hu => ?_⟩
  cases hunbound.symm.trans (hunit u hu)

/-- Settles O18: the command is out of sequence (`needs_nothing_of_inSequence_resetEvent`), so E_SEQ is the error
reported (`firstFailingCheckIsReported`); the reset event has cleared FAULT and OUT_LEN. -/
theorem afterResetDataCommandsEndInSeq : Obligations.AfterResetDataCommandsEndInSeq := by
  intro s i hneeds
  have hout : ¬ InSequence i s.resetEvent := fun hin => by
    obtain ⟨hks0, htbl, hunit⟩ := needs_nothing_of_inSequence_resetEvent hin
    simp [hks0, htbl, hunit] at hneeds
  have hraised : raisedWhen i s.resetEvent .seq = true := by
    rwa [← raisedWhen_seq, Bool.not_eq_false] at hout
  exact (firstFailingCheckIsReported i s.resetEvent rfl).1 .seq (firstRaised_seq hraised)

end Sys2Proof.Machine
end
